-- ==== Sys2Proof/Word.lean ====
section
/-! DEFINITION. The engine's two data types (spec/00_scope.md section 5): the 64-bit unsigned word, on which
BitVec's own `+`, `-`, `^^^`, `|||`, `<<<` and `>>>` are the spec's `+64`, `−64`, XOR, OR and logical shifts (R61),
and the byte. -/

namespace Sys2Proof

/-- A word: 64 bits, unsigned, arithmetic modulo 2^64 (R61). -/
abbrev Word := BitVec 64

/-- A byte of one of the byte views (R40, R41). -/
abbrev Byte := BitVec 8

end Sys2Proof
end

