-- ==== Sys2Proof/Syntax.lean ====
section
/-! DEFINITION. The 21 commands of spec/30_encoding.md R51, one constructor a row of spec/opcode_table.json. A command's
only operands in its command word are the fields of R50; every other operand is in a register. -/

namespace Sys2Proof

/-- A decoded command (R50, R51). `tag` is the 8-bit TYPE field, `bitpad`, `first` and `final` the one-bit fields. -/
inductive Instr where
  | nop
  | reset
  | setcfg
  | cinit
  | cenc
  | cdec
  | uinit
  | uinitz
  | uupd
  | uout
  | twenc (tag : BitVec 8) (bitpad first final : Bool)
  | cfgser
  | hinit
  | hkey
  | hprs
  | hpk
  | hkdf
  | hnon
  | hmblk
  | hmfin (bitpad : Bool)
  | hout
  deriving DecidableEq, Repr

end Sys2Proof
end

