-- ==== Sys2Proof/WellFormed.lean ====
section
/-! DEFINITION. Which values written to CMD are commands (spec/60_exceptions.md R136, spec/30_encoding.md R53): one named
check for each condition of R136, written from that rule's bit numbers and not from the decoder, so that the two can be held
against each other. A term of `Instr` needs no check of its own: each operand's type is exactly its field's width (R50). -/

namespace Sys2Proof

/-- The 21 opcodes (R51). -/
def opcodes : List (BitVec 8) :=
  [0x00, 0x01, 0x02, 0x10, 0x11, 0x12, 0x20, 0x21, 0x22, 0x23, 0x30, 0x31,
   0x40, 0x41, 0x42, 0x43, 0x44, 0x45, 0x46, 0x47, 0x48]

/-- R136: w[63:32] = 0. -/
def upperClear (w : Word) : Bool := w.extractLsb' 32 32 == 0

/-- R136: w[31:19] = 0. -/
def reservedClear (w : Word) : Bool := w.extractLsb' 19 13 == 0

/-- R136: w[7:0] is one of the 21 opcodes. -/
def opcodeKnown (w : Word) : Bool := opcodes.contains (w.extractLsb' 0 8)

/-- R136: TYPE, FIRST and FINAL are zero unless the opcode is TWENC. -/
def tweakFieldsClear (w : Word) : Bool :=
  w.extractLsb' 0 8 == 0x30
    || (w.extractLsb' 8 8 == 0 && !w.getLsbD 17 && !w.getLsbD 18)

/-- R136: BITPAD is zero unless the opcode is TWENC or HMFIN. -/
def bitpadClear (w : Word) : Bool :=
  w.extractLsb' 0 8 == 0x30 || w.extractLsb' 0 8 == 0x47 || !w.getLsbD 16

/-- The value `w` written to CMD is a command: none of R136's conditions holds. -/
def wordLegal (w : Word) : Bool :=
  upperClear w && reservedClear w && opcodeKnown w && tweakFieldsClear w && bitpadClear w

end Sys2Proof
end

