-- ==== Sys2Proof/Decode.lean ====
section
/-! DEFINITION. The command decoder and encoder (spec/30_encoding.md R50 to R53). Decoding depends on the written value
alone and is total on 64-bit values; a value that matches no row is rejected with the reason's name. -/

namespace Sys2Proof

/-- Why a value written to CMD is no command; the engine reports all three as IllegalCommand (R53, R136). -/
inductive Illegal where
  /-- Bits 63:32 are not all zero. -/
  | upperBits
  /-- Bits 7:0 are no opcode of the table. -/
  | unknownOpcode
  /-- A bit that the opcode's row shows as 0 is set. -/
  | strayBits
  deriving DecidableEq, Repr

/-- A row of the opcode map: the opcode, the mask of the bits the row fixes, and the command its fields give. -/
structure Row where
  opc : BitVec 8
  mask : BitVec 32
  build : BitVec 32 → Instr

/-- TYPE, bits 15:8 (R50). -/
def fieldType (c : BitVec 32) : BitVec 8 := c.extractLsb' 8 8

/-- BITPAD, bit 16 (R50). -/
def fieldBitpad (c : BitVec 32) : Bool := c.getLsbD 16

/-- FIRST, bit 17 (R50). -/
def fieldFirst (c : BitVec 32) : Bool := c.getLsbD 17

/-- FINAL, bit 18 (R50). -/
def fieldFinal (c : BitVec 32) : Bool := c.getLsbD 18

/-- The opcode map (R51), in the table's order. -/
def rows : List Row :=
  [⟨0x00, 0xFFFFFFFF, fun _ => .nop⟩,
   ⟨0x01, 0xFFFFFFFF, fun _ => .reset⟩,
   ⟨0x02, 0xFFFFFFFF, fun _ => .setcfg⟩,
   ⟨0x10, 0xFFFFFFFF, fun _ => .cinit⟩,
   ⟨0x11, 0xFFFFFFFF, fun _ => .cenc⟩,
   ⟨0x12, 0xFFFFFFFF, fun _ => .cdec⟩,
   ⟨0x20, 0xFFFFFFFF, fun _ => .uinit⟩,
   ⟨0x21, 0xFFFFFFFF, fun _ => .uinitz⟩,
   ⟨0x22, 0xFFFFFFFF, fun _ => .uupd⟩,
   ⟨0x23, 0xFFFFFFFF, fun _ => .uout⟩,
   ⟨0x30, 0xFFF800FF, fun c => .twenc (fieldType c) (fieldBitpad c) (fieldFirst c) (fieldFinal c)⟩,
   ⟨0x31, 0xFFFFFFFF, fun _ => .cfgser⟩,
   ⟨0x40, 0xFFFFFFFF, fun _ => .hinit⟩,
   ⟨0x41, 0xFFFFFFFF, fun _ => .hkey⟩,
   ⟨0x42, 0xFFFFFFFF, fun _ => .hprs⟩,
   ⟨0x43, 0xFFFFFFFF, fun _ => .hpk⟩,
   ⟨0x44, 0xFFFFFFFF, fun _ => .hkdf⟩,
   ⟨0x45, 0xFFFFFFFF, fun _ => .hnon⟩,
   ⟨0x46, 0xFFFFFFFF, fun _ => .hmblk⟩,
   ⟨0x47, 0xFFFEFFFF, fun c => .hmfin (fieldBitpad c)⟩,
   ⟨0x48, 0xFFFFFFFF, fun _ => .hout⟩]

/-- The decoder: reads OPC, finds the row, and checks that every bit the row shows as 0 is 0 (R51). -/
def decode (w : Word) : Except Illegal Instr :=
  if w.extractLsb' 32 32 ≠ 0 then .error .upperBits
  else
    let c := w.extractLsb' 0 32
    match rows.find? (fun r => r.opc == c.extractLsb' 0 8) with
    | none => .error .unknownOpcode
    | some r => if c &&& r.mask = r.opc.setWidth 32 then .ok (r.build c) else .error .strayBits

/-- A one-bit field as a word with the field in bit 0. -/
def flagWord (b : Bool) : Word := (BitVec.ofBool b).setWidth 64

/-- The command word with the given fields, every reserved bit zero (R50). -/
def commandOf (opc tag : BitVec 8) (bitpad first final : Bool) : Word :=
  opc.setWidth 64 ||| (tag.setWidth 64 <<< 8) ||| (flagWord bitpad <<< 16) ||| (flagWord first <<< 17)
    ||| (flagWord final <<< 18)

/-- The value to write to CMD for a command (R50, R51). -/
def encode : Instr → Word
  | .nop => commandOf 0x00 0 false false false
  | .reset => commandOf 0x01 0 false false false
  | .setcfg => commandOf 0x02 0 false false false
  | .cinit => commandOf 0x10 0 false false false
  | .cenc => commandOf 0x11 0 false false false
  | .cdec => commandOf 0x12 0 false false false
  | .uinit => commandOf 0x20 0 false false false
  | .uinitz => commandOf 0x21 0 false false false
  | .uupd => commandOf 0x22 0 false false false
  | .uout => commandOf 0x23 0 false false false
  | .twenc tag bitpad first final => commandOf 0x30 tag bitpad first final
  | .cfgser => commandOf 0x31 0 false false false
  | .hinit => commandOf 0x40 0 false false false
  | .hkey => commandOf 0x41 0 false false false
  | .hprs => commandOf 0x42 0 false false false
  | .hpk => commandOf 0x43 0 false false false
  | .hkdf => commandOf 0x44 0 false false false
  | .hnon => commandOf 0x45 0 false false false
  | .hmblk => commandOf 0x46 0 false false false
  | .hmfin bitpad => commandOf 0x47 0 bitpad false false
  | .hout => commandOf 0x48 0 false false false

/-- The value written to CMD for an opcode-table word: its `nbits` low bits, every higher bit 0. A command is one 32-bit
word in CMD[31:0] (R50), so there are no words to lay out. -/
def tableWord (nbits w : Nat) : Word := BitVec.ofNat 64 (w % 2 ^ nbits)

/-- What the decoder reads from an opcode-table word. -/
def decodeTableWord (nbits w : Nat) : Option Instr := (decode (tableWord nbits w)).toOption

end Sys2Proof
end

