-- ==== Sys2Proof/Config.lean ====
section
/-! DEFINITION. The two OPEN parameters of the spec (spec/92_eei_decisions.md D13, D18). They have no body: every theorem
about the model holds whatever their values are (log entries 1 and 2). -/

namespace Sys2Proof.Config

/-- How many 128-byte units the digest buffer has beyond its first one. DESIGN CHOICE (log entry 1): R4 makes OBUF_MAX
an argument of the model that is a multiple of 128 and at least 128, which this form says by construction. -/
opaque obufExtraUnits : Nat

/-- `outPosLater i` is OUTPOS(i + 1), the tweak position of output block i + 1. DESIGN CHOICE (log entry 2): R115 leaves
OUTPOS(i) open for i ≥ 1. -/
opaque outPosLater : Nat → Word

end Sys2Proof.Config
end

