-- ==== Sys2Proof/Machine/State.lean ====
section
/-! DEFINITION. The engine's state (spec/10_state.md R10), the host's moves (spec/70_reset_and_hazards.md R163), and the
reasons a step could stop. -/

namespace Sys2Proof.Machine

/-- STATUS.PHASE: the seven values that occur (R23, R100). -/
inductive Phase where
  | idle
  | new
  | keyed
  | pre
  | msg
  | msgdone
  | done
  deriving DecidableEq, Repr

/-- The engine's seven faults (R132). A fault is a next state with STATUS.FAULT and ERR set (R133), not a stop. -/
inductive FaultKind where
  | blockSize
  | rounds
  | outputLength
  | illegalCommand
  | sequenceError
  | inputTooLong
  | operandRange
  deriving DecidableEq, Repr

/-- One move of the host, made between commands (R55, R163). A write of register 00 is a command (R22). -/
inductive HostMove where
  | read (number : Nat)
  | write (number : Nat) (value : Word)
  | hardwareReset
  deriving DecidableEq, Repr

/-- A register named by its number (R32). `obw j` is OBW[j] for any `j`; `regOf` decides which `j` exist. -/
inductive Reg where
  | cmd
  | status
  | err
  | bsize
  | rounds
  | cfgnw
  | cfgnr
  | pos
  | outlen
  | tree
  | ilen
  | olen
  | bpos
  | houtlen
  | twk0
  | twk1
  | key (i : Fin 16)
  | blk (i : Fin 16)
  | res (i : Fin 16)
  | cbw (j : Fin 4)
  | obw (j : Nat)
  | reserved
  deriving DecidableEq, Repr

/-- A byte buffer as the list of its nonzero bytes by rising offset. A byte that is not listed is 0 (R21, R35; log 9). -/
abbrev Memory := List Host.Cell

/-- The canonical form: offsets strictly rising from at least `lo`, no listed byte 0. -/
def memoryWfFrom (lo : Nat) : Memory → Bool
  | [] => true
  | (a, b) :: m => decide (lo ≤ a) && b != 0 && memoryWfFrom (a + 1) m

/-- The canonical form of a buffer, so that equal buffers are equal lists. -/
def Memory.wf (m : Memory) : Bool := memoryWfFrom 0 m

/-- The reasons a step could stop with a fault. There is none: every error of the engine is reported in STATUS.FAULT and
ERR and the machine goes on (R133), every access of the host is answered (R33), and every command terminates (R162).
Nobody raises one, which is safe: no behaviour of the engine is cut off (log 7). -/
inductive Fault where
  deriving DecidableEq, Repr

/-- The reasons a step could be refused. -/
inductive Refusal where
  /-- Raised by an arm of `exec` whose command has no meaning yet; safe, the machine stops. No arm raises it. -/
  | notModelled (mnemonic : String)
  deriving DecidableEq, Repr

/-- The architectural state (R10), and the model's own two fields for the host's side of a run (R161; log 3). -/
structure State where
  /-- KEY[0..15] (R11). -/
  key : Vector Word 16
  /-- TWK[0], the position word t0 (R12). -/
  twk0 : Word
  /-- TWK[1], the flags and type word t1 (R12). -/
  twk1 : Word
  /-- BLK[0..15] (R13). -/
  blk : Vector Word 16
  /-- RES[0..15] (R14). -/
  res : Vector Word 16
  /-- KS[0..16], the key schedule (R16). -/
  ks : Vector Word 17
  /-- TS[0..2], the tweak schedule (R17). -/
  ts : Vector Word 3
  /-- CV[0..15], the chaining value (R18). -/
  cv : Vector Word 16
  /-- CB[0..31], the configuration block (R20). -/
  cb : Vector Byte 32
  /-- OBUF, the digest buffer (R21). -/
  obuf : Memory
  /-- OLEN, the number of valid bytes of OBUF (R21). -/
  olen : Word
  /-- BSIZE (R25). -/
  bsize : Word
  /-- ROUNDS (R25). -/
  rounds : Word
  /-- POS (R27). -/
  pos : Word
  /-- OUTLEN (R28). -/
  outlen : Word
  /-- TREE, bits 23:0; the other bits read 0 (R29). -/
  tree : BitVec 24
  /-- ILEN (R30). -/
  ilen : Word
  /-- STATUS.CFGV (R23). -/
  cfgv : Bool
  /-- STATUS.CKEYED (R23). -/
  ckeyed : Bool
  /-- STATUS.FAULT (R23). -/
  fault : Bool
  /-- STATUS.OLM_SHORT (R23). -/
  olmShort : Bool
  /-- STATUS.OLM_TRUNC (R23). -/
  olmTrunc : Bool
  /-- STATUS.FIRSTPEND (R23). -/
  firstpend : Bool
  /-- STATUS.CFGDONE (R23). -/
  cfgdone : Bool
  /-- STATUS.PHASE (R23). -/
  phase : Phase
  /-- STATUS.LASTTYPE (R23). -/
  lasttype : BitVec 6
  /-- ERR, bits 7:0; the other bits read 0 (R24). -/
  err : BitVec 8
  /-- CFGNW (R26). -/
  cfgnw : Word
  /-- CFGNR (R26). -/
  cfgnr : Word
  /-- BPOS (R31). -/
  bpos : Word
  /-- HOUTLEN (R31). -/
  houtlen : Word
  /-- The host's moves still to come, the next one first. The model's own field (log 3). -/
  script : List HostMove
  /-- The values the host's reads have returned, oldest first. The model's own field (log 3). -/
  reads : List Word
  deriving DecidableEq, Repr

/-- The engine right after hardware reset: every register 0, PHASE = IDLE (R35, R150), and no host move waiting. -/
def State.reset : State where
  key := Vector.replicate 16 0
  twk0 := 0
  twk1 := 0
  blk := Vector.replicate 16 0
  res := Vector.replicate 16 0
  ks := Vector.replicate 17 0
  ts := Vector.replicate 3 0
  cv := Vector.replicate 16 0
  cb := Vector.replicate 32 0
  obuf := []
  olen := 0
  bsize := 0
  rounds := 0
  pos := 0
  outlen := 0
  tree := 0
  ilen := 0
  cfgv := false
  ckeyed := false
  fault := false
  olmShort := false
  olmTrunc := false
  firstpend := false
  cfgdone := false
  phase := .idle
  lasttype := 0
  err := 0
  cfgnw := 0
  cfgnr := 0
  bpos := 0
  houtlen := 0
  script := []
  reads := []

end Sys2Proof.Machine
end

