-- ==== Sys2Proof/Machine/Bytes.lean ====
section
/-! DEFINITION. Bytes and words (spec/20_memory.md R41, R44, R46): the engine's one byte order, little-endian, and the
zero padding of a short block. A block is held as the list of its words, word 0 first. -/

namespace Sys2Proof.Machine

/-- BYTE(w, k): bits 8k+7 down to 8k (R41). -/
def wordByte (w : Word) (k : Nat) : Byte := w.extractLsb' (8 * k) 8

/-- The eight bytes of a word, byte 0 first (R41). -/
def wordBytes (w : Word) : List Byte :=
  [wordByte w 0, wordByte w 1, wordByte w 2, wordByte w 3, wordByte w 4, wordByte w 5, wordByte w 6, wordByte w 7]

/-- BytesOf: a block as a byte string (R46). -/
def bytesOf (ws : List Word) : List Byte := ws.flatMap wordBytes

/-- LE64: the word whose byte k is the k-th byte of the string, for a string of at most eight bytes (R41). -/
def le64 : List Byte → Word
  | [] => 0
  | b :: bs => (le64 bs <<< 8) ||| b.setWidth 64

/-- The first `n` little-endian words of a byte string (R41). -/
def wordsOf : Nat → List Byte → List Word
  | 0, _ => []
  | n + 1, bs => le64 (bs.take 8) :: wordsOf n (bs.drop 8)

/-- BlockOf: a byte string of at most 8·nw bytes, zero-padded to a block of `nw` words (R44). -/
def blockOf (nw : Nat) (s : List Byte) : List Word :=
  wordsOf nw (s ++ List.replicate (8 * nw - s.length) 0)

/-- A word bank with its first words replaced by `ws`; the words beyond keep what they held (R34). -/
def writeLow {n : Nat} (bank : Vector Word n) (ws : List Word) : Vector Word n :=
  ⟨((ws ++ bank.toList.drop ws.length).take n).toArray, by
    simp only [List.size_toArray, List.length_take, List.length_append, List.length_drop, Vector.length_toList]
    omega⟩

end Sys2Proof.Machine
end

