-- ==== Sys2Proof/Machine/Tables.lean ====
section
/-! DEFINITION. The cipher's constants (spec/40_cipher.md R62, R64, R65) and the type tags (spec/30_encoding.md R54). The
spec marks the numbers of R62, R64 and R65 as recalled from general knowledge; the model follows the rules (log 5). -/

namespace Sys2Proof.Machine

/-- C_PARITY (R62; UNVERIFIED, log 5). -/
def parityConstant : Word := 0x1BD11BDAA9FC1A22

/-- ROT[4], one row for each d mod 8 (R64; UNVERIFIED, log 5). -/
def rot4 : List (List Nat) :=
  [[14, 16], [52, 57], [23, 40], [5, 37], [25, 33], [46, 12], [58, 22], [32, 32]]

/-- ROT[8] (R64; UNVERIFIED, log 5). -/
def rot8 : List (List Nat) :=
  [[46, 36, 19, 37], [33, 27, 14, 42], [17, 49, 36, 39], [44, 9, 54, 56],
   [39, 30, 34, 24], [13, 50, 10, 17], [25, 29, 39, 43], [8, 35, 56, 22]]

/-- ROT[16] (R64; UNVERIFIED, log 5). -/
def rot16 : List (List Nat) :=
  [[24, 13, 8, 47, 8, 17, 22, 37], [38, 19, 10, 55, 49, 18, 23, 52],
   [33, 4, 51, 13, 34, 41, 59, 17], [5, 20, 48, 41, 47, 28, 16, 25],
   [41, 9, 37, 31, 12, 47, 44, 30], [16, 34, 56, 51, 4, 53, 42, 41],
   [31, 44, 47, 46, 19, 42, 44, 25], [9, 48, 35, 52, 23, 31, 37, 20]]

/-- ROT[NW][d mod 8], the rotation amounts of round `d` by pair (R64). Only 4, 8 and 16 occur as NW; any other value
selects the largest tables (DESIGN CHOICE, log 6). -/
def rotRow (nw d : Nat) : List Nat :=
  (if nw = 4 then rot4 else if nw = 8 then rot8 else rot16).getD (d % 8) []

/-- PERM[NW]: output word i of a round is mixed word PERM[NW][i] (R65; UNVERIFIED, log 5; other NW as in log 6). -/
def perm (nw : Nat) : List Nat :=
  if nw = 4 then [0, 3, 2, 1]
  else if nw = 8 then [2, 1, 4, 7, 6, 5, 0, 3]
  else [0, 9, 2, 13, 6, 11, 4, 15, 10, 7, 12, 3, 14, 5, 8, 1]

/-- INV[NW], with INV[NW][PERM[NW][i]] = i (R65; other NW as in log 6). -/
def permInv (nw : Nat) : List Nat :=
  if nw = 4 then [0, 3, 2, 1]
  else if nw = 8 then [6, 1, 0, 7, 2, 5, 4, 3]
  else [0, 15, 2, 11, 6, 13, 4, 9, 14, 1, 8, 5, 10, 3, 12, 7]

/-- T_KEY (R54). -/
def tagKey : BitVec 6 := 0
/-- T_CFG (R54). -/
def tagCfg : BitVec 6 := 4
/-- T_PRS (R54). -/
def tagPrs : BitVec 6 := 8
/-- T_PK (R54). -/
def tagPk : BitVec 6 := 12
/-- T_KDF (R54). -/
def tagKdf : BitVec 6 := 16
/-- T_NON (R54). -/
def tagNon : BitVec 6 := 20
/-- T_MSG (R54). -/
def tagMsg : BitVec 6 := 48
/-- T_OUT (R54). -/
def tagOut : BitVec 6 := 63

end Sys2Proof.Machine
end

