-- ==== Sys2Proof/Machine/Flags.lean ====
section
/-! DEFINITION. STATUS as a register (spec/10_state.md R23), the conditions on its fields under which a command is legal
(spec/43_hash_sequencer.md R100, spec/60_exceptions.md R137), and the two OLM flags (R114). -/

namespace Sys2Proof.Machine

/-- The 4-bit code of a phase (R23). -/
def phaseCode : Phase → BitVec 4
  | .idle => 0
  | .new => 1
  | .keyed => 2
  | .pre => 3
  | .msg => 4
  | .msgdone => 5
  | .done => 6

/-- STATUS as the host reads it: every field at its bits, every other bit 0 (R23). -/
def statusWord (s : State) : Word :=
  flagWord s.cfgv ||| (flagWord s.ckeyed <<< 1) ||| (flagWord s.fault <<< 2) ||| (flagWord s.olmShort <<< 3)
    ||| (flagWord s.olmTrunc <<< 4) ||| (flagWord s.firstpend <<< 5) ||| (flagWord s.cfgdone <<< 6)
    ||| ((phaseCode s.phase).setWidth 64 <<< 8) ||| (s.lasttype.setWidth 64 <<< 16)

/-- PHASE is IDLE or DONE: no hash owns the cipher and the chaining value (R137 (b), R157). -/
def lowLevelPhase (s : State) : Bool := s.phase == .idle || s.phase == .done

/-- The phase in which HKEY is legal (R100). -/
def keyPhase (s : State) : Bool := s.phase == .new

/-- The phases in which the optional pass with type tag `tag` is legal, for HPRS, HPK, HKDF and HNON (R100). -/
def optionalPhase (tag : BitVec 6) (s : State) : Bool :=
  s.phase == .new || s.phase == .keyed || (s.phase == .pre && decide (s.lasttype < tag))

/-- The phases in which HMBLK and HMFIN are legal (R100). -/
def messagePhase (s : State) : Bool :=
  s.phase == .new || s.phase == .keyed || s.phase == .pre || s.phase == .msg

/-- The phase in which HOUT is legal (R100). -/
def outputPhase (s : State) : Bool := s.phase == .msgdone

/-- OLM_SHORT after HOUT: set when fewer bytes were generated than wanted (R114). -/
def olmShortAfter (generated want : Nat) (old : Bool) : Bool := old || decide (generated < want)

/-- OLM_TRUNC after HOUT: set when more bytes were generated than wanted (R114). -/
def olmTruncAfter (generated want : Nat) (old : Bool) : Bool := old || decide (want < generated)

end Sys2Proof.Machine
end

