-- ==== Sys2Proof/Machine/Operands.lean ====
section
/-! DEFINITION. What a command reads: the configured sizes (spec/10_state.md R26), the used words of each bank (R34), the
input bytes of BLK (spec/20_memory.md R45), the parts of TREE (R29), and the two open parameters in the form the rules use
them (R4, R115). -/

namespace Sys2Proof.Machine

/-- NW, the block's word count: CFGNW (R26). -/
def blockWords (s : State) : Nat := s.cfgnw.toNat

/-- NB, the block's byte count: 8·CFGNW (R26). -/
def blockBytes (s : State) : Nat := 8 * blockWords s

/-- NR, the round count: CFGNR (R26). -/
def roundCount (s : State) : Nat := s.cfgnr.toNat

/-- KEY[0..NW−1] (R11). -/
def keyWords (s : State) : List Word := s.key.toList.take (blockWords s)

/-- BLK[0..NW−1] (R13). -/
def blkWords (s : State) : List Word := s.blk.toList.take (blockWords s)

/-- CV[0..NW−1] (R18). -/
def cvWords (s : State) : List Word := s.cv.toList.take (blockWords s)

/-- KS[0..NW] (R16). -/
def ksWords (s : State) : List Word := s.ks.toList.take (blockWords s + 1)

/-- MemRead(BLK, 0, n): the first `n` bytes of the BLK byte view (R42). -/
def blkBytes (s : State) (n : Nat) : List Byte := (bytesOf s.blk.toList).take n

/-- InBlock(n): the first `n` bytes of BLK, zero-padded to a block (R45, R101). -/
def inBlock (s : State) (n : Nat) : List Word := blockOf (blockWords s) (blkBytes s n)

/-- treeLeafSize, TREE[7:0] (R29). -/
def treeLeaf (s : State) : Byte := s.tree.extractLsb' 0 8

/-- treeFanOut, TREE[15:8] (R29). -/
def treeFan (s : State) : Byte := s.tree.extractLsb' 8 8

/-- treeMaxHeight, TREE[23:16] (R29). -/
def treeHeight (s : State) : Byte := s.tree.extractLsb' 16 8

/-- ceil(a / b) for b > 0 (spec/00_scope.md section 5). -/
def ceilDiv (a b : Nat) : Nat := (a + b - 1) / b

/-- OBUF_MAX, the capacity of the digest buffer in bytes: a multiple of 128, at least 128 (R4; log 1). -/
def obufMax : Nat := 128 * (Config.obufExtraUnits + 1)

/-- `need` bytes do not fit into OBUF. The first test settles every `need` that fits into any legal buffer (R4). -/
def exceedsObuf (need : Nat) : Bool := decide (128 < need) && decide (obufMax < need)

/-- The number of output blocks for an output of `bits` bits: ceil(bits / (64·NW)) (R113). -/
def outputBlockCount (s : State) (bits : Word) : Nat := ceilDiv bits.toNat (64 * blockWords s)

/-- OUTPOS(i): 8 for block 0, open for the blocks after it (R115; log 2). -/
def outPos : Nat → Word
  | 0 => 8
  | i + 1 => Config.outPosLater i

end Sys2Proof.Machine
end

