-- ==== Sys2Proof/Machine/Ops.lean ====
section
/-! DEFINITION. The named operations on the state: the digest buffer's bytes (spec/20_memory.md R42, R43), the writes of
each bank and register group, fault entry and fault return (spec/60_exceptions.md R133, R135), Clear()
(spec/44_control.md R121), the form every command has (R133, R134, R139), and host reads and writes of the register space
(spec/10_state.md R32, R33). -/

namespace Sys2Proof.Machine

/-- The byte at an offset; a byte that is not listed is 0 (R21). -/
def memRead : Memory → Nat → Byte
  | [], _ => 0
  | (a, b) :: m, k => if a = k then b else memRead m k

/-- Store one byte, keeping the canonical form: storing 0 removes the entry. -/
def memWrite : Memory → Nat → Byte → Memory
  | [], k, v => if v = 0 then [] else [(k, v)]
  | (a, b) :: m, k, v =>
    if k < a then (if v = 0 then (a, b) :: m else (k, v) :: (a, b) :: m)
    else if k = a then (if v = 0 then m else (a, v) :: m)
    else (a, b) :: memWrite m k v

/-- MemWrite: store a byte string from an offset on (R43). -/
def memWriteBytes (m : Memory) : Nat → List Byte → Memory
  | _, [] => m
  | k, b :: bs => memWriteBytes (memWrite m k b) (k + 1) bs

/-- The `n` bytes from an offset on (R42). -/
def memReadBytes (m : Memory) (k n : Nat) : List Byte := (List.range n).map (fun j => memRead m (k + j))

/-- The fault codes (R132). -/
def faultCode : FaultKind → BitVec 8
  | .blockSize => 1
  | .rounds => 2
  | .outputLength => 3
  | .illegalCommand => 4
  | .sequenceError => 5
  | .inputTooLong => 6
  | .operandRange => 7

/-- Fault entry: STATUS.FAULT and ERR are written and nothing else changes (R133). -/
def raise (k : FaultKind) (s : State) : State := { s with fault := true, err := faultCode k }

/-- Fault return: STATUS.FAULT and ERR are cleared (R135; the part of RESET beyond Clear(), R121). -/
def faultReturn (s : State) : State := { s with fault := false, err := 0 }

/-- Clear() (R121). -/
def clear (s : State) : State :=
  { s with
    twk0 := 0, twk1 := 0, ts := Vector.replicate 3 0, cv := Vector.replicate 16 0,
    ks := Vector.replicate 17 0, res := Vector.replicate 16 0, cb := Vector.replicate 32 0,
    obuf := [], olen := 0, bpos := 0, houtlen := 0,
    ckeyed := false, olmShort := false, olmTrunc := false, firstpend := false, cfgdone := false,
    lasttype := 0, phase := .idle }

/-- TWK[0], TWK[1] <- the pair (R12). -/
def setTweak (t : Word × Word) (s : State) : State := { s with twk0 := t.1, twk1 := t.2 }

/-- KS[0..NW] and TS <- a derived schedule, and STATUS.CKEYED <- 1 (R16, R17, R23). -/
def setSchedule (ks : List Word) (ts : Vector Word 3) (s : State) : State :=
  { s with ks := writeLow s.ks ks, ts := ts, ckeyed := true }

/-- RES[0..NW−1] <- a block (R14). -/
def setResult (ws : List Word) (s : State) : State := { s with res := writeLow s.res ws }

/-- CV[0..NW−1] <- a block (R18). -/
def setChaining (ws : List Word) (s : State) : State := { s with cv := writeLow s.cv ws }

/-- MemWrite(CB, 0, 32, v) (R20, R43). -/
def setConfigBlock (v : Vector Byte 32) (s : State) : State := { s with cb := v }

/-- STATUS.PHASE <- p. -/
def setPhase (p : Phase) (s : State) : State := { s with phase := p }

/-- STATUS.LASTTYPE <- t. -/
def setLasttype (t : BitVec 6) (s : State) : State := { s with lasttype := t }

/-- STATUS.CFGDONE <- 1. -/
def setCfgdone (s : State) : State := { s with cfgdone := true }

/-- STATUS.FIRSTPEND <- b. -/
def setFirstpend (b : Bool) (s : State) : State := { s with firstpend := b }

/-- BPOS <- v (R31). -/
def setBpos (v : Word) (s : State) : State := { s with bpos := v }

/-- HOUTLEN <- v (R31). -/
def setHoutlen (v : Word) (s : State) : State := { s with houtlen := v }

/-- CFGNW, CFGNR <- the configuration, and STATUS.CFGV <- 1 (R26). -/
def setConfiguration (nw nr : Word) (s : State) : State := { s with cfgnw := nw, cfgnr := nr, cfgv := true }

/-- Deliver the generated bytes: keep the first `want`, set the OLM flags, zero the rest of OBUF, and write OLEN (R114). -/
def deliver (want : Nat) (raw : List Byte) (s : State) : State :=
  { s with
    olmShort := olmShortAfter raw.length want s.olmShort
    olmTrunc := olmTruncAfter raw.length want s.olmTrunc
    obuf := memWriteBytes [] 0 (raw.take want)
    olen := BitVec.ofNat 64 (raw.take want).length }

/-- The fault of the first check whose condition holds, in the order written (R139). -/
def firstRaised : List (Bool × FaultKind) → Option FaultKind
  | [] => none
  | (true, k) :: _ => some k
  | (false, _) :: rest => firstRaised rest

/-- The form of every command but RESET: ignored while STATUS.FAULT = 1 (R134); otherwise all checks in order, the first
that holds ending the command with its fault (R139), and only then the effect (R133). -/
def command (checks : List (Bool × FaultKind)) (effect : State → State) (s : State) :
    Host.Outcome State Fault Refusal :=
  if s.fault then .next s
  else match firstRaised checks with
    | some k => .next (raise k s)
    | none => .next (effect s)

/-- The control and tweak registers, numbers 00 to 1F (R32). -/
def controlRegOf (n : Nat) : Reg :=
  match n with
  | 0x00 => .cmd
  | 0x01 => .status
  | 0x02 => .err
  | 0x03 => .bsize
  | 0x04 => .rounds
  | 0x05 => .cfgnw
  | 0x06 => .cfgnr
  | 0x07 => .pos
  | 0x08 => .outlen
  | 0x09 => .tree
  | 0x0A => .ilen
  | 0x0B => .olen
  | 0x0C => .bpos
  | 0x0D => .houtlen
  | 0x10 => .twk0
  | 0x11 => .twk1
  | _ => .reserved

/-- The register with a number (R32). OBW has OBUF_MAX / 8 registers; the first sixteen exist in every engine (R4). -/
def regOf (n : Nat) : Reg :=
  if n < 0x20 then controlRegOf n
  else if n < 0x30 then .key (Fin.ofNat 16 (n - 0x20))
  else if n < 0x40 then .blk (Fin.ofNat 16 (n - 0x30))
  else if n < 0x50 then .res (Fin.ofNat 16 (n - 0x40))
  else if n < 0x54 then .cbw (Fin.ofNat 4 (n - 0x50))
  else if n < 0x60 then .reserved
  else if n < 0x70 ∨ n - 0x60 < obufMax / 8 then .obw (n - 0x60)
  else .reserved

/-- What a host read of a register returns (R23 to R33): a write-only or reserved register reads 0. -/
def readReg (r : Reg) (s : State) : Word :=
  match r with
  | .cmd => 0
  | .status => statusWord s
  | .err => s.err.setWidth 64
  | .bsize => s.bsize
  | .rounds => s.rounds
  | .cfgnw => s.cfgnw
  | .cfgnr => s.cfgnr
  | .pos => s.pos
  | .outlen => s.outlen
  | .tree => s.tree.setWidth 64
  | .ilen => s.ilen
  | .olen => s.olen
  | .bpos => s.bpos
  | .houtlen => s.houtlen
  | .twk0 => s.twk0
  | .twk1 => s.twk1
  | .key i => s.key.get i
  | .blk i => s.blk.get i
  | .res i => s.res.get i
  | .cbw j => le64 ((s.cb.toList.drop (8 * j.val)).take 8)
  | .obw j => le64 (memReadBytes s.obuf (8 * j) 8)
  | .reserved => 0

/-- What a host write of a register other than CMD does (R33): only that register changes, and a write to a read-only or
reserved register, or to reserved bits, is ignored. -/
def writeReg (r : Reg) (v : Word) (s : State) : State :=
  match r with
  | .bsize => { s with bsize := v }
  | .rounds => { s with rounds := v }
  | .pos => { s with pos := v }
  | .outlen => { s with outlen := v }
  | .tree => { s with tree := v.setWidth 24 }
  | .ilen => { s with ilen := v }
  | .twk0 => { s with twk0 := v }
  | .twk1 => { s with twk1 := v }
  | .key i => { s with key := s.key.set i.val v }
  | .blk i => { s with blk := s.blk.set i.val v }
  | .cmd => s
  | .status => s
  | .err => s
  | .cfgnw => s
  | .cfgnr => s
  | .olen => s
  | .bpos => s
  | .houtlen => s
  | .res _ => s
  | .cbw _ => s
  | .obw _ => s
  | .reserved => s

end Sys2Proof.Machine
end

