-- ==== Sys2Proof/Machine/Rounds.lean ====
section
/-! DEFINITION. The cipher's pure functions (spec/40_cipher.md R62, R63, R66 to R68, R73) on blocks of words. -/

namespace Sys2Proof.Machine

/-- KeySchedule: the key words and the parity word (R62). -/
def keySchedule (k : List Word) : List Word := k ++ [k.foldl (· ^^^ ·) parityConstant]

/-- TweakSchedule: t0, t1, t0 XOR t1 (R63). -/
def tweakSchedule (t0 t1 : Word) : Vector Word 3 := #v[t0, t1, t0 ^^^ t1]

/-- TS[j mod 3]. -/
def tweakWord (ts : Vector Word 3) (j : Nat) : Word := ts.toList.getD (j % 3) 0

/-- Word i of subkey s (R66; UNVERIFIED, log 5). -/
def subkeyWord (nw : Nat) (ks : List Word) (ts : Vector Word 3) (s i : Nat) : Word :=
  let base := ks.getD ((s + i) % (nw + 1)) 0
  if i + 3 = nw then base + tweakWord ts s
  else if i + 2 = nw then base + tweakWord ts (s + 1)
  else if i + 1 = nw then base + BitVec.ofNat 64 s
  else base

/-- Subkey(KS, TS, s) (R66). -/
def subkey (nw : Nat) (ks : List Word) (ts : Vector Word 3) (s : Nat) : List Word :=
  (List.range nw).map (subkeyWord nw ks ts s)

/-- ROTL64 (spec/00_scope.md section 5), for 0 < n < 64. -/
def rotl (a : Word) (n : Nat) : Word := (a <<< n) ||| (a >>> (64 - n))

/-- ROTR64 (spec/00_scope.md section 5), for 0 < n < 64. -/
def rotr (a : Word) (n : Nat) : Word := (a >>> n) ||| (a <<< (64 - n))

/-- Mix(x0, x1, R) (R73). -/
def mix (x0 x1 : Word) (r : Nat) : Word × Word := (x0 + x1, rotl x1 r ^^^ (x0 + x1))

/-- Unmix(y0, y1, R) (R73). -/
def unmix (y0 y1 : Word) (r : Nat) : Word × Word := (y0 - rotr (y1 ^^^ y0) r, rotr (y1 ^^^ y0) r)

/-- The mixes of a round on adjacent word pairs, pair j by the j-th rotation amount (R67). -/
def mixPairs : List Nat → List Word → List Word
  | r :: rs, x0 :: x1 :: xs => (mix x0 x1 r).1 :: (mix x0 x1 r).2 :: mixPairs rs xs
  | _, _ => []

/-- The inverse mixes of a round (R68). -/
def unmixPairs : List Nat → List Word → List Word
  | r :: rs, y0 :: y1 :: ys => (unmix y0 y1 r).1 :: (unmix y0 y1 r).2 :: unmixPairs rs ys
  | _, _ => []

/-- Output word i is input word p[i]. -/
def permute (p : List Nat) (ws : List Word) : List Word := p.map (fun i => ws.getD i 0)

/-- Add a subkey set, word by word (R67). -/
def addSubkey (ws sk : List Word) : List Word := List.zipWith (· + ·) ws sk

/-- Subtract a subkey set, word by word (R68). -/
def subSubkey (ws sk : List Word) : List Word := List.zipWith (· - ·) ws sk

/-- Round d of encryption: on every fourth round the subkey, then the mixes, then the permutation (R67). -/
def encRound (nw : Nat) (ks : List Word) (ts : Vector Word 3) (d : Nat) (v : List Word) : List Word :=
  permute (perm nw)
    (mixPairs (rotRow nw d) (if d % 4 = 0 then addSubkey v (subkey nw ks ts (d / 4)) else v))

/-- Round d undone: the inverse permutation, the inverse mixes, then on every fourth round the subkey (R68). -/
def decRound (nw : Nat) (ks : List Word) (ts : Vector Word 3) (d : Nat) (v : List Word) : List Word :=
  let u := unmixPairs (rotRow nw d) (permute (permInv nw) v)
  if d % 4 = 0 then subSubkey u (subkey nw ks ts (d / 4)) else u

/-- The running state after rounds 0 to n − 1 (R67). -/
def encRounds (nw : Nat) (ks : List Word) (ts : Vector Word 3) (p : List Word) : Nat → List Word
  | 0 => p
  | n + 1 => encRound nw ks ts n (encRounds nw ks ts p n)

/-- Rounds n − 1 down to 0 undone (R68). -/
def decRounds (nw : Nat) (ks : List Word) (ts : Vector Word 3) : Nat → List Word → List Word
  | 0, v => v
  | n + 1, v => decRounds nw ks ts n (decRound nw ks ts n v)

/-- Encrypt(KS, TS, P) with `nr` rounds on blocks of `nw` words (R67). -/
def encrypt (nw nr : Nat) (ks : List Word) (ts : Vector Word 3) (p : List Word) : List Word :=
  addSubkey (encRounds nw ks ts p nr) (subkey nw ks ts (nr / 4))

/-- Decrypt(KS, TS, C) (R68). -/
def decrypt (nw nr : Nat) (ks : List Word) (ts : Vector Word 3) (c : List Word) : List Word :=
  decRounds nw ks ts nr (subSubkey c (subkey nw ks ts (nr / 4)))

end Sys2Proof.Machine
end

