-- ==== Sys2Proof/Machine/Cipher.lean ====
section
/-! DEFINITION. The Cipher unit's commands (spec/40_cipher.md): CINIT, CENC, CDEC. -/

namespace Sys2Proof.Machine

/-- What CINIT does: KS and TS from KEY and TWK, CKEYED (R70). -/
def cinitEffect (s : State) : State :=
  setSchedule (keySchedule (keyWords s)) (tweakSchedule s.twk0 s.twk1) s

/-- CINIT (R70). -/
def execCinit (s : State) : Host.Outcome State Fault Refusal :=
  command [(!s.cfgv, .sequenceError), (!lowLevelPhase s, .sequenceError)] cinitEffect s

/-- What CENC does: RES <- Encrypt(KS, TS, BLK) (R71). -/
def cencEffect (s : State) : State :=
  setResult (encrypt (blockWords s) (roundCount s) (ksWords s) s.ts (blkWords s)) s

/-- CENC (R71). -/
def execCenc (s : State) : Host.Outcome State Fault Refusal :=
  command [(!s.cfgv, .sequenceError), (!lowLevelPhase s, .sequenceError), (!s.ckeyed, .sequenceError)] cencEffect s

/-- What CDEC does: RES <- Decrypt(KS, TS, BLK) (R72). -/
def cdecEffect (s : State) : State :=
  setResult (decrypt (blockWords s) (roundCount s) (ksWords s) s.ts (blkWords s)) s

/-- CDEC (R72). -/
def execCdec (s : State) : Host.Outcome State Fault Refusal :=
  command [(!s.cfgv, .sequenceError), (!lowLevelPhase s, .sequenceError), (!s.ckeyed, .sequenceError)] cdecEffect s

end Sys2Proof.Machine
end

