-- ==== Sys2Proof/Machine/Control.lean ====
section
/-! DEFINITION. Engine control (spec/44_control.md): NOP, RESET, SETCFG. -/

namespace Sys2Proof.Machine

/-- NOP: no change (R120). -/
def execNop (s : State) : Host.Outcome State Fault Refusal := command [] id s

/-- RESET: Clear() and fault return, the one command executed while STATUS.FAULT = 1 (R121, R134, R135). -/
def execReset (s : State) : Host.Outcome State Fault Refusal := .next (faultReturn (clear s))

/-- BSIZE names a supported block size, compared as a full 64-bit number (R122). -/
def blockSizeSupported (bsize : Word) : Bool := bsize == 256 || bsize == 512 || bsize == 1024

/-- ROUNDS is a positive multiple of 4 (R122). -/
def roundsSupported (rounds : Word) : Bool := rounds != 0 && rounds.toNat % 4 == 0

/-- What an accepted SETCFG does (R122). -/
def setcfgEffect (s : State) : State := setConfiguration (s.bsize / 64) s.rounds (clear s)

/-- SETCFG: block size before round count (R122, R139). -/
def execSetcfg (s : State) : Host.Outcome State Fault Refusal :=
  command [(!blockSizeSupported s.bsize, .blockSize), (!roundsSupported s.rounds, .rounds)] setcfgEffect s

end Sys2Proof.Machine
end

