-- ==== Sys2Proof/Machine/TweakConfig.lean ====
section
/-! DEFINITION. The tweak encoder and the configuration block serializer (spec/42_tweak_config.md): TWENC, CFGSER. -/

namespace Sys2Proof.Machine

/-- TweakEncode: t0 is the position; t1 has FINAL at 63, FIRST at 62, TYPE at 61:56, BITPAD at 55, and 0 below
(R90, R91). -/
def tweakEncode (final first : Bool) (type : BitVec 6) (bitpad : Bool) (pos : Word) : Word × Word :=
  (pos, (flagWord final <<< 63) ||| (flagWord first <<< 62) ||| (type.setWidth 64 <<< 56) ||| (flagWord bitpad <<< 55))

/-- What TWENC does: TWK <- TweakEncode of the command's fields and POS (R92). -/
def twencEffect (tag : BitVec 8) (bitpad first final : Bool) (s : State) : State :=
  setTweak (tweakEncode final first (tag.extractLsb' 0 6) bitpad s.pos) s

/-- TWENC: TYPE > 63 is refused; no configuration and no phase is needed (R92). -/
def execTwenc (tag : BitVec 8) (bitpad first final : Bool) (s : State) : Host.Outcome State Fault Refusal :=
  command [(decide (63 < tag.toNat), .operandRange)] (twencEffect tag bitpad first final) s

/-- ConfigBytes: the 32-byte configuration block (R95). -/
def configBytes (outBits : Word) (leaf fan height : Byte) : Vector Byte 32 :=
  #v[0x53, 0x48, 0x41, 0x33, 0x01, 0x00, 0x00, 0x00,
     wordByte outBits 0, wordByte outBits 1, wordByte outBits 2, wordByte outBits 3,
     wordByte outBits 4, wordByte outBits 5, wordByte outBits 6, wordByte outBits 7,
     leaf, fan, height, 0, 0, 0, 0, 0, 0, 0, 0, 0, 0, 0, 0, 0]

/-- What CFGSER does: CB <- ConfigBytes of OUTLEN and TREE (R96). -/
def cfgserEffect (s : State) : State :=
  setConfigBlock (configBytes s.outlen (treeLeaf s) (treeFan s) (treeHeight s)) s

/-- CFGSER: no check of its own (R96). -/
def execCfgser (s : State) : Host.Outcome State Fault Refusal := command [] cfgserEffect s

end Sys2Proof.Machine
end

