-- ==== Sys2Proof/Machine/Ubi.lean ====
section
/-! DEFINITION. The UBI chaining controller (spec/41_ubi.md): UbiUpdate, UINIT, UINITZ, UUPD, UOUT. -/

namespace Sys2Proof.Machine

/-- The new chaining value: ciphertext XOR message block (R82). -/
def feedForward (c m : List Word) : List Word := List.zipWith (· ^^^ ·) c m

/-- UbiUpdate(M, t0, t1): the cipher is keyed with the chaining value as it was before the step, encrypts the block, and
the ciphertext XOR the block replaces the chaining value (R82). -/
def ubiUpdate (m : List Word) (t0 t1 : Word) (s : State) : State :=
  let ks := keySchedule (cvWords s)
  let ts := tweakSchedule t0 t1
  let c := encrypt (blockWords s) (roundCount s) ks ts m
  setChaining (feedForward c m) (setSchedule ks ts s)

/-- What UINIT does: CV[0..NW−1] <- BLK[0..NW−1] (R80). -/
def uinitEffect (s : State) : State := setChaining (blkWords s) s

/-- UINIT (R80). -/
def execUinit (s : State) : Host.Outcome State Fault Refusal :=
  command [(!s.cfgv, .sequenceError), (!lowLevelPhase s, .sequenceError)] uinitEffect s

/-- What UINITZ does: CV[0..NW−1] <- 0 (R81). -/
def uinitzEffect (s : State) : State := setChaining (List.replicate (blockWords s) 0) s

/-- UINITZ (R81). -/
def execUinitz (s : State) : Host.Outcome State Fault Refusal :=
  command [(!s.cfgv, .sequenceError), (!lowLevelPhase s, .sequenceError)] uinitzEffect s

/-- What UUPD does: one chaining step over BLK under TWK as it stands (R83, R85). -/
def uupdEffect (s : State) : State := ubiUpdate (blkWords s) s.twk0 s.twk1 s

/-- UUPD (R83). -/
def execUupd (s : State) : Host.Outcome State Fault Refusal :=
  command [(!s.cfgv, .sequenceError), (!lowLevelPhase s, .sequenceError)] uupdEffect s

/-- What UOUT does: RES[0..NW−1] <- CV[0..NW−1] (R84). -/
def uoutEffect (s : State) : State := setResult (cvWords s) s

/-- UOUT, legal in every phase (R84). -/
def execUout (s : State) : Host.Outcome State Fault Refusal :=
  command [(!s.cfgv, .sequenceError)] uoutEffect s

end Sys2Proof.Machine
end

