-- ==== Sys2Proof/Machine/Hash.lean ====
section
/-! DEFINITION. The hash sequencer (spec/43_hash_sequencer.md): its shared procedures and its nine commands. -/

namespace Sys2Proof.Machine

/-- Pass: one chaining step under a tweak built here, which TWK is left holding (R102). -/
def pass (final first : Bool) (type : BitVec 6) (bitpad : Bool) (pos : Word) (m : List Word) (s : State) : State :=
  let t := tweakEncode final first type bitpad pos
  ubiUpdate m t.1 t.2 (setTweak t s)

/-- The configuration pass: CB serialized from HOUTLEN with a zero tree, then one pass over it at position 32 (R103). -/
def configPass (s : State) : State :=
  let s := setConfigBlock (configBytes s.houtlen 0 0 0) s
  let s := pass true true tagCfg false 32 (blockOf (blockWords s) s.cb.toList) s
  setLasttype tagCfg (setPhase .pre (setCfgdone s))

/-- EnsureConfig: the configuration pass, if this hash has not had it yet (R103). -/
def ensureConfig (s : State) : State := if s.cfgdone then s else configPass s

/-- OptPass(type): one optional input, ILEN bytes of BLK, as one pass (R104). -/
def optPass (type : BitVec 6) (s : State) : State :=
  setLasttype type (pass true true type false s.ilen (inBlock s s.ilen.toNat) s)

/-- HINIT's capacity check: ceil(OUTLEN / (64·NW))·NB > OBUF_MAX (R105). -/
def outputTooLarge (s : State) : Bool := exceedsObuf (outputBlockCount s s.outlen * blockBytes s)

/-- What HINIT does (R105). -/
def hinitEffect (s : State) : State :=
  setPhase .new (setFirstpend true (setHoutlen s.outlen (clear s)))

/-- HINIT, legal in every phase (R105). -/
def execHinit (s : State) : Host.Outcome State Fault Refusal :=
  command
    [(!s.cfgv, .sequenceError), (s.outlen.toNat % 8 != 0, .outputLength), (s.tree != 0, .operandRange),
     (outputTooLarge s, .operandRange)]
    hinitEffect s

/-- ILEN > NB (R132). -/
def inputTooLong (s : State) : Bool := decide (blockBytes s < s.ilen.toNat)

/-- What HKEY does: the key pass, the only one before the configuration pass (R106). -/
def hkeyEffect (s : State) : State := setPhase .keyed (optPass tagKey s)

/-- HKEY (R106). -/
def execHkey (s : State) : Host.Outcome State Fault Refusal :=
  command [(!s.cfgv, .sequenceError), (!keyPhase s, .sequenceError), (inputTooLong s, .inputTooLong)] hkeyEffect s

/-- What HPRS, HPK, HKDF and HNON do with their own tag: the configuration pass if due, then the input's (R107 to R110). -/
def optionalEffect (tag : BitVec 6) (s : State) : State := setPhase .pre (optPass tag (ensureConfig s))

/-- The form HPRS, HPK, HKDF and HNON share (R107 to R110). -/
def optionalCommand (tag : BitVec 6) (s : State) : Host.Outcome State Fault Refusal :=
  command
    [(!s.cfgv, .sequenceError), (!optionalPhase tag s, .sequenceError), (inputTooLong s, .inputTooLong)]
    (optionalEffect tag) s

/-- HPRS (R107). -/
def execHprs (s : State) : Host.Outcome State Fault Refusal := optionalCommand tagPrs s

/-- HPK (R108). -/
def execHpk (s : State) : Host.Outcome State Fault Refusal := optionalCommand tagPk s

/-- HKDF (R109). -/
def execHkdf (s : State) : Host.Outcome State Fault Refusal := optionalCommand tagKdf s

/-- HNON (R110). -/
def execHnon (s : State) : Host.Outcome State Fault Refusal := optionalCommand tagNon s

/-- BPOS + n > 2^64 − 1 (R111, R112). -/
def positionOverflow (s : State) (n : Nat) : Bool := decide (2 ^ 64 - 1 < s.bpos.toNat + n)

/-- One message block of `n` real bytes: the configuration pass if due, BPOS advanced by `n`, one message pass at the new
BPOS, and the phase after it (R111, R112). -/
def messageBlock (final bitpad : Bool) (n : Nat) (m : List Word) (after : Phase) (s : State) : State :=
  let s := ensureConfig s
  let s := setBpos (s.bpos + BitVec.ofNat 64 n) s
  let s := pass final s.firstpend tagMsg bitpad s.bpos m s
  setLasttype tagMsg (setPhase after (setFirstpend false s))

/-- What HMBLK does: a full, non-final message block (R111). -/
def hmblkEffect (s : State) : State := messageBlock false false (blockBytes s) (blkWords s) .msg s

/-- HMBLK (R111). -/
def execHmblk (s : State) : Host.Outcome State Fault Refusal :=
  command
    [(!s.cfgv, .sequenceError), (!messagePhase s, .sequenceError),
     (positionOverflow s (blockBytes s), .operandRange)]
    hmblkEffect s

/-- What HMFIN does: the last message block, ILEN bytes of BLK zero-padded (R112, R118). -/
def hmfinEffect (bitpad : Bool) (s : State) : State :=
  messageBlock true bitpad s.ilen.toNat (inBlock s s.ilen.toNat) .msgdone s

/-- HMFIN's refusal of an empty last block, but for the empty message without bit padding (R112). -/
def emptyLastBlock (bitpad : Bool) (s : State) : Bool := s.ilen == 0 && (!s.firstpend || bitpad)

/-- HMFIN (R112). -/
def execHmfin (bitpad : Bool) (s : State) : Host.Outcome State Fault Refusal :=
  command
    [(!s.cfgv, .sequenceError), (!messagePhase s, .sequenceError), (inputTooLong s, .inputTooLong),
     (emptyLastBlock bitpad s, .operandRange), (positionOverflow s s.ilen.toNat, .operandRange)]
    (hmfinEffect bitpad) s

/-- The block of output counter value `i`: word 0 is `i`, the rest 0 (R113). -/
def counterBlock (nw i : Nat) : List Word := BitVec.ofNat 64 i :: List.replicate (nw - 1) 0

/-- Output block `i` of `n`: one pass, chained on the block before it (R113). -/
def outputPass (n i : Nat) (s : State) : State :=
  pass (decide (i + 1 = n)) (decide (i = 0)) tagOut false (outPos i) (counterBlock (blockWords s) i) s

/-- The state after the first `k` of `n` output blocks, and the bytes they have generated (R113). -/
def outputBlocks (n : Nat) : Nat → State → State × List Byte
  | 0, s => (s, [])
  | k + 1, s =>
    let r := outputBlocks n k s
    let s := outputPass n k r.1
    (s, r.2 ++ bytesOf (cvWords s))

/-- What HOUT does: the output blocks, then truncation and delivery (R113, R114). -/
def houtEffect (s : State) : State :=
  let n := outputBlockCount s s.houtlen
  let r := outputBlocks n n s
  setLasttype tagOut (setPhase .done (deliver (s.houtlen.toNat / 8) r.2 r.1))

/-- HOUT (R113). -/
def execHout (s : State) : Host.Outcome State Fault Refusal :=
  command [(!s.cfgv, .sequenceError), (!outputPhase s, .sequenceError)] houtEffect s

end Sys2Proof.Machine
end

