-- ==== Sys2Proof/Machine/Dispatch.lean ====
section
/-! DEFINITION. One arm per command (spec/30_encoding.md R51). -/

namespace Sys2Proof.Machine

def exec (i : Instr) (s : State) : Host.Outcome State Fault Refusal :=
  match i with
  | .nop => Sys2Proof.Machine.execNop s
  | .reset => Sys2Proof.Machine.execReset s
  | .setcfg => Sys2Proof.Machine.execSetcfg s
  | .cinit => Sys2Proof.Machine.execCinit s
  | .cenc => Sys2Proof.Machine.execCenc s
  | .cdec => Sys2Proof.Machine.execCdec s
  | .uinit => Sys2Proof.Machine.execUinit s
  | .uinitz => Sys2Proof.Machine.execUinitz s
  | .uupd => Sys2Proof.Machine.execUupd s
  | .uout => Sys2Proof.Machine.execUout s
  | .twenc tag bitpad first final => Sys2Proof.Machine.execTwenc tag bitpad first final s
  | .cfgser => Sys2Proof.Machine.execCfgser s
  | .hinit => Sys2Proof.Machine.execHinit s
  | .hkey => Sys2Proof.Machine.execHkey s
  | .hprs => Sys2Proof.Machine.execHprs s
  | .hpk => Sys2Proof.Machine.execHpk s
  | .hkdf => Sys2Proof.Machine.execHkdf s
  | .hnon => Sys2Proof.Machine.execHnon s
  | .hmblk => Sys2Proof.Machine.execHmblk s
  | .hmfin bitpad => Sys2Proof.Machine.execHmfin bitpad s
  | .hout => Sys2Proof.Machine.execHout s

end Sys2Proof.Machine
end

