-- ==== Sys2Proof/Machine/HostPort.lean ====
section
/-! DEFINITION. The host's moves on the engine (spec/70_reset_and_hazards.md R163): a register read, a register write, a
write of CMD, which runs one command to completion (R22, R155), and hardware reset (R150). -/

namespace Sys2Proof.Machine

/-- A write of CMD: a value that is no command faults with IllegalCommand, decided from the value alone, and is ignored
while STATUS.FAULT = 1 like every command but RESET (R22, R134, R136); a command is executed. -/
def writeCmd (w : Word) (s : State) : Host.Outcome State Fault Refusal :=
  match decode w with
  | .error _ => command [(true, .illegalCommand)] id s
  | .ok i => exec i s

/-- A host read: no side effect but the returned value, which is recorded (R33, R161). -/
def hostRead (n : Nat) (s : State) : State := { s with reads := s.reads ++ [readReg (regOf n) s] }

/-- A host write: CMD runs a command, every other register is written (R22, R33). -/
def hostWrite (n : Nat) (v : Word) (s : State) : Host.Outcome State Fault Refusal :=
  match regOf n with
  | .cmd => writeCmd v s
  | r => .next (writeReg r v s)

/-- Hardware reset: every register as `State.reset` has it; the host's own script and its record of reads are not the
engine's and stay (R150; log 3). -/
def hardwareReset (s : State) : State := { State.reset with script := s.script, reads := s.reads }

/-- One move of the host (R163). -/
def hostMove (m : HostMove) (s : State) : Host.Outcome State Fault Refusal :=
  match m with
  | .read n => .next (hostRead n s)
  | .write n v => hostWrite n v s
  | .hardwareReset => .next (hardwareReset s)

/-- The next move is taken off the script and made. With no move left the engine does nothing: it never acts on its own
(R161). -/
def scriptStep (s : State) : Host.Outcome State Fault Refusal :=
  match s.script with
  | [] => .next s
  | m :: rest => hostMove m { s with script := rest }

/-- The next move of the host is the write of `w` to CMD. -/
def issueNext (w : Word) (s : State) : State := { s with script := .write 0 w :: s.script }

end Sys2Proof.Machine
end

