-- ==== Sys2Proof/Machine/Step.lean ====
section
/-! DEFINITION. One step of a run: the host's next move (spec/70_reset_and_hazards.md R161). The engine fetches no
instructions (R15, R49); what stands in a program's place is the host's script (log 3). -/

namespace Sys2Proof.Machine

/-- One step: the next move of the host's script. -/
def step (s : State) : Host.Outcome State Fault Refusal := scriptStep s

/-- `s` with the opcode-table word `w` as the very next move of the host: a write of it to CMD (R22, R49; log 3). -/
def State.withFetchWord (s : State) (nbits w : Nat) : State := issueNext (tableWord nbits w) s

end Sys2Proof.Machine
end

