-- ==== Sys2Proof/Machine/HashFunction.lean ====
section
/-! DEFINITION. The hash as one pure function (spec/43_hash_sequencer.md R117): what the sequencer's commands compute, with
no state. No command calls it; it is what a claim about a whole hash is stated in terms of. Its tags, positions and counter
blocks are written out as R117 writes them, apart from the names the commands use. -/

namespace Sys2Proof.Machine

/-- Step(G, final, first, type, bitpad, pos, B) (R117). -/
def hashStep (nw nr : Nat) (g : List Word) (final first : Bool) (type : BitVec 6) (bitpad : Bool) (pos : Word)
    (b : List Word) : List Word :=
  let t := tweakEncode final first type bitpad pos
  feedForward (encrypt nw nr (keySchedule g) (tweakSchedule t.1 t.2) b) b

/-- The configuration step (R117, R103). -/
def hashConfig (nw nr : Nat) (outBits : Word) (g : List Word) : List Word :=
  hashStep nw nr g true true 4 false 32 (blockOf nw (configBytes outBits 0 0 0).toList)

/-- The step of an optional input, if it is present (R117, R104). -/
def hashOptional (nw nr : Nat) (type : BitVec 6) (x : Option (List Byte)) (g : List Word) : List Word :=
  match x with
  | none => g
  | some s => hashStep nw nr g true true type false (BitVec.ofNat 64 s.length) (blockOf nw s)

/-- The number of message blocks: max(1, ceil(L / NB)) (R56, R117). -/
def messageBlockCount (nw len : Nat) : Nat := max 1 (ceilDiv len (8 * nw))

/-- Message block j of n (R117). -/
def hashMessageStep (nw nr n : Nat) (m : List Byte) (bitpad : Bool) (j : Nat) (g : List Word) : List Word :=
  let last := decide (j + 1 = n)
  hashStep nw nr g last (decide (j = 0)) 48 (bitpad && last)
    (BitVec.ofNat 64 (min ((j + 1) * (8 * nw)) m.length))
    (blockOf nw ((m.drop (j * (8 * nw))).take (8 * nw)))

/-- The chaining value after the first k of n message blocks (R117). -/
def hashMessage (nw nr n : Nat) (m : List Byte) (bitpad : Bool) : Nat → List Word → List Word
  | 0, g => g
  | k + 1, g => hashMessageStep nw nr n m bitpad k (hashMessage nw nr n m bitpad k g)

/-- The chaining value after the first k of n output blocks, and the bytes they give (R117, R113). -/
def hashOutput (nw nr n : Nat) : Nat → List Word → List Word × List Byte
  | 0, g => (g, [])
  | k + 1, g =>
    let r := hashOutput nw nr n k g
    let g' := hashStep nw nr r.1 (decide (k + 1 = n)) (decide (k = 0)) 63 false (outPos k)
      (BitVec.ofNat 64 k :: List.replicate (nw - 1) 0)
    (g', r.2 ++ bytesOf g')

/-- The optional inputs of a hash (R58). -/
structure OptionalInputs where
  key : Option (List Byte)
  prs : Option (List Byte)
  pk : Option (List Byte)
  kdf : Option (List Byte)
  non : Option (List Byte)
  deriving DecidableEq, Repr

/-- The chaining value after the key, configuration and other optional passes, from zero (R117, R116). -/
def hashPrelude (nw nr : Nat) (outBits : Word) (o : OptionalInputs) : List Word :=
  hashOptional nw nr 20 o.non <| hashOptional nw nr 16 o.kdf <| hashOptional nw nr 12 o.pk <|
    hashOptional nw nr 8 o.prs <| hashConfig nw nr outBits <|
    hashOptional nw nr 0 o.key (List.replicate nw 0)

/-- Hash(NW, NR, outBits, M, key?, prs?, pk?, kdf?, non?, bitpad) (R117). -/
def hashFunction (nw nr : Nat) (outBits : Word) (m : List Byte) (o : OptionalInputs) (bitpad : Bool) : List Byte :=
  let n := messageBlockCount nw m.length
  let g := hashMessage nw nr n m bitpad n (hashPrelude nw nr outBits o)
  let k := ceilDiv outBits.toNat (64 * nw)
  (hashOutput nw nr k k g).2.take (outBits.toNat / 8)

end Sys2Proof.Machine
end

