-- ==== Sys2Proof/Machine/HostScripts.lean ====
section
/-! DEFINITION. The pseudo-commands (spec/30_encoding.md R55 to R59) as the host scripts they expand to. -/

namespace Sys2Proof.Machine

/-- A command of the script: a write of its word to CMD (R55). -/
def issue (i : Instr) : HostMove := .write 0 (encode i)

/-- Writes of a list of words to the registers from a number on (R55). -/
def writeWords (n : Nat) : List Word → List HostMove
  | [] => []
  | w :: ws => .write n w :: writeWords (n + 1) ws

/-- `BLK <- bytes(s)`: the words of BlockOf(s), extended with zero words, to all sixteen BLK registers (R55). -/
def writeBlk (s : List Byte) : List HostMove := writeWords 0x30 (blockOf 16 s)

/-- Reads of n registers from a number on (R55). -/
def readWords (r n : Nat) : List HostMove := (List.range n).map (fun i => .read (r + i))

/-- The commands that HOPT may name (R57). -/
inductive OptionalCommand where
  | hkey
  | hprs
  | hpk
  | hkdf
  | hnon
  deriving DecidableEq, Repr

/-- The command that HOPT issues (R57). -/
def optionalInstr : OptionalCommand → Instr
  | .hkey => .hkey
  | .hprs => .hprs
  | .hpk => .hpk
  | .hkdf => .hkdf
  | .hnon => .hnon

/-- HOPT cmd, s on an engine with blocks of `nb` bytes: an input longer than one block has no expansion (R57). -/
def hoptScript (nb : Nat) (cmd : OptionalCommand) (s : List Byte) : Option (List HostMove) :=
  if s.length ≤ nb then some (writeBlk s ++ [.write 0x0A (BitVec.ofNat 64 s.length), issue (optionalInstr cmd)])
  else none

/-- One optional input of HASH: nothing where it is absent, else its HOPT (R58). -/
def optionalScript (nb : Nat) (cmd : OptionalCommand) (s : Option (List Byte)) : Option (List HostMove) :=
  match s with
  | none => some []
  | some s => hoptScript nb cmd s

/-- HASH's optional inputs, in its order; without an expansion if one of them has none (R57, R58). -/
def optionalScripts (nb : Nat) : List (OptionalCommand × Option (List Byte)) → Option (List HostMove)
  | [] => some []
  | x :: xs =>
    match optionalScript nb x.1 x.2, optionalScripts nb xs with
    | some a, some b => some (a ++ b)
    | _, _ => none

/-- HASH's optional inputs with their commands, in its order (R58). -/
def optionalList (o : OptionalInputs) : List (OptionalCommand × Option (List Byte)) :=
  [(.hkey, o.key), (.hprs, o.prs), (.hpk, o.pk), (.hkdf, o.kdf), (.hnon, o.non)]

/-- HMSG M BITPAD=b with `more` full blocks of `nb` bytes before the last one (R56). -/
def messageScript (nb : Nat) (bitpad : Bool) : Nat → List Byte → List HostMove
  | 0, m => writeBlk m ++ [.write 0x0A (BitVec.ofNat 64 m.length), issue (.hmfin bitpad)]
  | more + 1, m => writeBlk (m.take nb) ++ [issue .hmblk] ++ messageScript nb bitpad more (m.drop nb)

/-- HMSG M BITPAD=b on an engine with blocks of `nw` words (R56). -/
def hmsgScript (nw : Nat) (bitpad : Bool) (m : List Byte) : List HostMove :=
  messageScript (8 * nw) bitpad (messageBlockCount nw m.length - 1) m

/-- HASH's reads of the result: OLEN, then OBW[0 .. ceil(OLEN/8)−1] (R58). -/
def digestReads (olen : Nat) : List HostMove := .read 0x0B :: readWords 0x60 (ceilDiv olen 8)

/-- HASH(outBits, M, key?, prs?, pk?, kdf?, non?, BITPAD=b) on an engine with blocks of `nw` words; without an expansion if
an optional input is longer than a block (R57, R58). The number of OBW reads is that of a completed hash, whose OLEN is
outBits/8 (R114). -/
def hashScript (nw : Nat) (outBits : Word) (m : List Byte) (o : OptionalInputs) (bitpad : Bool) :
    Option (List HostMove) :=
  match optionalScripts (8 * nw) (optionalList o) with
  | none => none
  | some inputs =>
    some ([.write 0x08 outBits, .write 0x09 0, issue .hinit] ++ inputs ++ hmsgScript nw bitpad m ++ [issue .hout]
      ++ digestReads (outBits.toNat / 8))

/-- ENCRYPT(K, T, P) on an engine with blocks of `nw` words (R59). -/
def encryptScript (nw : Nat) (k : List Word) (t0 t1 : Word) (p : List Word) : List HostMove :=
  writeWords 0x20 k ++ writeWords 0x10 [t0, t1] ++ [issue .cinit] ++ writeWords 0x30 p ++ [issue .cenc]
    ++ readWords 0x40 nw

/-- DECRYPT(K, T, C) on an engine with blocks of `nw` words (R59). -/
def decryptScript (nw : Nat) (k : List Word) (t0 t1 : Word) (c : List Word) : List HostMove :=
  writeWords 0x20 k ++ writeWords 0x10 [t0, t1] ++ [issue .cinit] ++ writeWords 0x30 c ++ [issue .cdec]
    ++ readWords 0x40 nw

/-- One block of the pseudo-command UBI: its block, its tweak, UUPD (R59). -/
def ubiBlockScript (b : List Word × Word × Word) : List HostMove :=
  writeWords 0x30 b.1 ++ writeWords 0x10 [b.2.1, b.2.2] ++ [issue .uupd]

/-- UBI's blocks and its result, after the chaining value is set (R59). -/
def ubiRestScript (nw : Nat) (blocks : List (List Word × Word × Word)) : List HostMove :=
  blocks.flatMap ubiBlockScript ++ [issue .uout] ++ readWords 0x40 nw

/-- UBI(G, blocks, tweaks) on an engine with blocks of `nw` words: the form with UINIT, for any G (R59). -/
def ubiScript (nw : Nat) (g : List Word) (blocks : List (List Word × Word × Word)) : List HostMove :=
  writeWords 0x30 g ++ [issue .uinit] ++ ubiRestScript nw blocks

/-- UBI(G, blocks, tweaks) with G all-zero: the form with UINITZ in UINIT's place (R59). -/
def ubiZeroScript (nw : Nat) (blocks : List (List Word × Word × Word)) : List HostMove :=
  writeWords 0x30 (List.replicate nw 0) ++ [issue .uinitz] ++ ubiRestScript nw blocks

end Sys2Proof.Machine
end

