-- ==== Sys2Proof/Safety.lean ====
section
/-! DEFINITION. What counts as a sound state of the engine: the facts the spec says hold of every state a run reaches
(spec/93_implementation_defined.md, end of Part 1; R21, R24, R26, R100, R105, R114), the condition under which a command
is neither ignored nor refused for want of a configuration, and the sequence table of R100 as claims use it. -/

namespace Sys2Proof.Machine

/-- CFGNW is one of the three word counts (R2, R26). -/
def LegalBlockWords (w : Word) : Prop := w = 4 ∨ w = 8 ∨ w = 16

/-- Not faulted and configured (R134, R137 (a)), with a configuration that SETCFG can have written (R26). -/
structure Runnable (s : State) : Prop where
  unfaulted : s.fault = false
  configured : s.cfgv = true
  blockWords : LegalBlockWords s.cfgnw

/-- ERR is 0 exactly when FAULT = 0, and otherwise one of the codes 1 to 7 (R24, R132). -/
structure ErrSound (s : State) : Prop where
  clearWhenUnfaulted : s.fault = false → s.err = 0
  codeWhenFaulted : s.fault = true → 1 ≤ s.err.toNat ∧ s.err.toNat ≤ 7

/-- CFGNW and CFGNR are 0 before the first successful SETCFG, and an accepted pair after it (R26, R122). -/
structure ConfigSound (s : State) : Prop where
  zeroBefore : s.cfgv = false → s.cfgnw = 0 ∧ s.cfgnr = 0
  legalAfter : s.cfgv = true → LegalBlockWords s.cfgnw ∧ s.cfgnr ≠ 0 ∧ s.cfgnr.toNat % 4 = 0

/-- OBUF is in canonical form, no longer than its capacity, and 0 from OLEN on (R21). -/
structure BufferSound (s : State) : Prop where
  canonical : s.obuf.wf = true
  fits : s.olen.toNat ≤ obufMax
  zeroBeyond : ∀ k, s.olen.toNat ≤ k → memRead s.obuf k = 0

/-- The latched output length is a whole number of bytes whose blocks fit the buffer (R31, R105). -/
structure LatchSound (s : State) : Prop where
  wholeBytes : s.houtlen.toNat % 8 = 0
  capacity : outputBlockCount s s.houtlen * blockBytes s ≤ obufMax

/-- The phases after the configuration pass (R100, R103). -/
def configuredPhase : Phase → Bool
  | .idle => false
  | .new => false
  | .keyed => false
  | .pre => true
  | .msg => true
  | .msgdone => true
  | .done => true

/-- The phases of a hash before its first message block (R23). -/
def beforeMessage : Phase → Bool
  | .idle => false
  | .new => true
  | .keyed => true
  | .pre => true
  | .msg => false
  | .msgdone => false
  | .done => false

/-- The type tags LASTTYPE can hold in a phase (R100). The tag 4 is held in PRE only inside a command: the configuration
pass is always followed by the pass that called for it (R103). -/
def phaseTags : Phase → List (BitVec 6)
  | .idle => [0]
  | .new => [0]
  | .keyed => [0]
  | .pre => [8, 12, 16, 20]
  | .msg => [48]
  | .msgdone => [48]
  | .done => [63]

/-- The sequencer's fields agree with PHASE (R23, R100, R103, R111, R114). -/
structure SequencerSound (s : State) : Prop where
  configured : s.phase ≠ .idle → s.cfgv = true
  configPass : s.cfgdone = configuredPhase s.phase
  firstPending : s.firstpend = beforeMessage s.phase
  lastTag : s.lasttype ∈ phaseTags s.phase
  keyed : s.phase ≠ .idle → s.phase ≠ .new → s.ckeyed = true
  positionZero : s.phase = .idle ∨ beforeMessage s.phase = true → s.bpos = 0
  positionOnBlock : s.phase = .msg → s.bpos.toNat % blockBytes s = 0 ∧ 0 < s.bpos.toNat
  neverShort : s.olmShort = false
  truncatedOnlyDone : s.olmTrunc = true → s.phase = .done
  outputOnlyDone : s.phase ≠ .done → s.olen = 0
  latchOnlyHash : s.phase = .idle → s.houtlen = 0

/-- The facts that hold at reset and that every step keeps. -/
structure Inv (s : State) : Prop where
  err : ErrSound s
  config : ConfigSound s
  buffer : BufferSound s
  latch : LatchSound s
  sequencer : SequencerSound s

/-- What Clear() zeroes and HINIT leaves zero (R121, R105). -/
structure Cleared (t : State) : Prop where
  twk : t.twk0 = 0 ∧ t.twk1 = 0
  ts : ∀ i : Fin 3, t.ts[i] = 0
  cv : ∀ i : Fin 16, t.cv[i] = 0
  ks : ∀ i : Fin 17, t.ks[i] = 0
  res : ∀ i : Fin 16, t.res[i] = 0
  cb : ∀ i : Fin 32, t.cb[i] = 0
  obuf : ∀ k, memRead t.obuf k = 0
  olen : t.olen = 0
  bpos : t.bpos = 0
  ckeyed : t.ckeyed = false
  olm : t.olmShort = false ∧ t.olmTrunc = false
  cfgdone : t.cfgdone = false
  lasttype : t.lasttype = 0

/-- What no command writes: the host's operands, the host's control registers, and the host's side of the run
(R11, R13, R25, R27 to R30). -/
structure HostSideKept (s t : State) : Prop where
  key : t.key = s.key
  blk : t.blk = s.blk
  bsize : t.bsize = s.bsize
  rounds : t.rounds = s.rounds
  pos : t.pos = s.pos
  outlen : t.outlen = s.outlen
  tree : t.tree = s.tree
  ilen : t.ilen = s.ilen
  script : t.script = s.script
  reads : t.reads = s.reads

/-- The configuration is kept (R26). -/
structure ConfigurationKept (s t : State) : Prop where
  cfgv : t.cfgv = s.cfgv
  cfgnw : t.cfgnw = s.cfgnw
  cfgnr : t.cfgnr = s.cfgnr

/-- The words of RES and CV from index NW on and of KS beyond index NW are kept (R34). -/
structure HighWordsKept (s t : State) : Prop where
  res : ∀ i : Fin 16, blockWords s ≤ i.val → t.res[i] = s.res[i]
  cv : ∀ i : Fin 16, blockWords s ≤ i.val → t.cv[i] = s.cv[i]
  ks : ∀ i : Fin 17, blockWords s < i.val → t.ks[i] = s.ks[i]

/-- The command faults with a code (R132), with the state a fault leaves: FAULT and ERR written, nothing else (R133). -/
def Raises (i : Instr) (code : BitVec 8) (s : State) : Prop := exec i s = .next { s with fault := true, err := code }

/-- No hash owns the cipher and the chaining value (R137 (b), R157). -/
def OutsideHash (s : State) : Prop := s.phase = .idle ∨ s.phase = .done

/-- The phases in which a message block is legal (R100). -/
def TakesMessage (s : State) : Prop := s.phase = .new ∨ s.phase = .keyed ∨ s.phase = .pre ∨ s.phase = .msg

/-- The two states differ at most in the words of KEY, BLK, RES and CV from index `nw` on and of KS beyond index `nw`
(R34). -/
structure SameUsed (nw : Nat) (s t : State) : Prop where
  key : ∀ i : Fin 16, i.val < nw → t.key[i] = s.key[i]
  blk : ∀ i : Fin 16, i.val < nw → t.blk[i] = s.blk[i]
  res : ∀ i : Fin 16, i.val < nw → t.res[i] = s.res[i]
  cv : ∀ i : Fin 16, i.val < nw → t.cv[i] = s.cv[i]
  ks : ∀ i : Fin 17, i.val ≤ nw → t.ks[i] = s.ks[i]
  rest : { t with key := s.key, blk := s.blk, res := s.res, cv := s.cv, ks := s.ks } = s

/-- The move is a read. -/
def isRead : HostMove → Bool
  | .read _ => true
  | .write _ _ => false
  | .hardwareReset => false

/-- The commands that need STATUS.CFGV = 1 (R137 (a)). -/
def needsConfiguration : Instr → Bool
  | .nop => false
  | .reset => false
  | .setcfg => false
  | .cinit => true
  | .cenc => true
  | .cdec => true
  | .uinit => true
  | .uinitz => true
  | .uupd => true
  | .uout => true
  | .twenc _ _ _ _ => false
  | .cfgser => false
  | .hinit => true
  | .hkey => true
  | .hprs => true
  | .hpk => true
  | .hkdf => true
  | .hnon => true
  | .hmblk => true
  | .hmfin _ => true
  | .hout => true

/-- R100's column "legal when PHASE is", for a PHASE and a LASTTYPE. -/
def legalIn (i : Instr) (p : Phase) (last : BitVec 6) : Prop :=
  match i with
  | .hinit => True
  | .hkey => p = .new
  | .hprs => p = .new ∨ p = .keyed ∨ (p = .pre ∧ last < 8)
  | .hpk => p = .new ∨ p = .keyed ∨ (p = .pre ∧ last < 12)
  | .hkdf => p = .new ∨ p = .keyed ∨ (p = .pre ∧ last < 16)
  | .hnon => p = .new ∨ p = .keyed ∨ (p = .pre ∧ last < 20)
  | .hmblk => p = .new ∨ p = .keyed ∨ p = .pre ∨ p = .msg
  | .hmfin _ => p = .new ∨ p = .keyed ∨ p = .pre ∨ p = .msg
  | .hout => p = .msgdone
  | .reset => True
  | .setcfg => True
  | .cinit => p = .idle ∨ p = .done
  | .cenc => p = .idle ∨ p = .done
  | .cdec => p = .idle ∨ p = .done
  | .uinit => p = .idle ∨ p = .done
  | .uinitz => p = .idle ∨ p = .done
  | .uupd => p = .idle ∨ p = .done
  | .nop => True
  | .uout => True
  | .twenc _ _ _ _ => True
  | .cfgser => True

/-- R100's column "PHASE afterwards". -/
def phaseAfter (i : Instr) (p : Phase) : Phase :=
  match i with
  | .hinit => .new
  | .hkey => .keyed
  | .hprs => .pre
  | .hpk => .pre
  | .hkdf => .pre
  | .hnon => .pre
  | .hmblk => .msg
  | .hmfin _ => .msgdone
  | .hout => .done
  | .reset => .idle
  | .setcfg => .idle
  | .cinit => p
  | .cenc => p
  | .cdec => p
  | .uinit => p
  | .uinitz => p
  | .uupd => p
  | .nop => p
  | .uout => p
  | .twenc _ _ _ _ => p
  | .cfgser => p

/-- R100's column "LASTTYPE afterwards". -/
def lasttypeAfter (i : Instr) (last : BitVec 6) : BitVec 6 :=
  match i with
  | .hinit => 0
  | .hkey => 0
  | .hprs => 8
  | .hpk => 12
  | .hkdf => 16
  | .hnon => 20
  | .hmblk => 48
  | .hmfin _ => 48
  | .hout => 63
  | .reset => 0
  | .setcfg => 0
  | .cinit => last
  | .cenc => last
  | .cdec => last
  | .uinit => last
  | .uinitz => last
  | .uupd => last
  | .nop => last
  | .uout => last
  | .twenc _ _ _ _ => last
  | .cfgser => last

end Sys2Proof.Machine
end

