-- ==== Sys2Proof/Certificates/Slice0/Obligations.lean ====
section
/-! DEFINITION. The statements about the model, for the provers. Where a statement lists what a command writes, its last
clause puts every written field back and says that the rest of the state is as it was. -/

open Sys2Proof Sys2Proof.Machine

/-! ## Encoding (spec/30_encoding.md, spec/60_exceptions.md R136) -/

/-- R50 to R52: every command, at every value of its fields, is what its command word decodes to. -/
def Obligations.DecodeOfEncode : Prop := ∀ i : Instr, decode (encode i) = .ok i

/-- R51, R53: a value is the word of the command it decodes to, so no command has two words. -/
def Obligations.EncodeOfDecode : Prop := ∀ (w : Word) (i : Instr), decode w = .ok i → encode i = w

/-- R136: with FAULT = 0, a CMD write raises IllegalCommand exactly when one of the rule's conditions holds of the value,
whatever the state; every other value is a command, and no command raises it. -/
def Obligations.IllegalCommandExactly : Prop :=
  ∀ (w : Word) (s : State), s.fault = false →
    (wordLegal w = false → writeCmd w s = .next { s with fault := true, err := 4 }) ∧
    (wordLegal w = true → ∃ i, decode w = .ok i ∧ writeCmd w s = exec i s ∧
      ∀ t, exec i s = .next t → t.fault = true → t.err ≠ 4)

/-- R50, R51 and the command words printed in spec/95_test_vectors.md sections 5 and 8. -/
def Obligations.CommandWordsOfTheSpec : Prop :=
  decode 0x00 = .ok .nop ∧ decode 0x02 = .ok .setcfg ∧ decode 0x11 = .ok .cenc ∧ decode 0x22 = .ok .uupd ∧
  decode 0x63030 = .ok (.twenc 48 false true true) ∧ decode 0x60430 = .ok (.twenc 4 false true true) ∧
  decode 0x73F30 = .ok (.twenc 63 true true true) ∧ decode 0x4030 = .ok (.twenc 64 false false false) ∧
  decode 0x31 = .ok .cfgser ∧ decode 0x10047 = .ok (.hmfin true) ∧ decode 0x48 = .ok .hout ∧
  decode 0x03 = .error .unknownOpcode ∧ decode 0xFF = .error .unknownOpcode ∧
  decode 0x100000000 = .error .upperBits ∧ decode 0x111 = .error .strayBits ∧
  decode 0x10046 = .error .strayBits ∧ decode 0x80000 = .error .strayBits ∧
  decode 0x20040 = .error .strayBits ∧ decode 0x101 = .error .strayBits

/-! ## Steps and the host's moves (spec/10_state.md R22, R32, R33; spec/70_reset_and_hazards.md R155, R161, R163) -/

/-- R22, R155: a CMD write at the head of the script is one step, and that step is the decoded command on the state with
the move taken off (log 3); an illegal value is IllegalCommand, or nothing while FAULT = 1. -/
def Obligations.StepRunsDecodedCommand : Prop :=
  (∀ (s : State) (w : Word) (rest : List HostMove), s.script = .write 0 w :: rest →
    (∀ i, decode w = .ok i → step s = exec i { s with script := rest }) ∧
    (∀ e, decode w = .error e → s.fault = false →
      step s = .next { s with script := rest, fault := true, err := 4 }) ∧
    (∀ e, decode w = .error e → s.fault = true → step s = .next { s with script := rest })) ∧
  (∀ (s : State) (nbits w : Nat) (i : Instr), decode (tableWord nbits w) = .ok i →
    step (s.withFetchWord nbits w) = exec i s)

/-- R161: the engine never acts on its own; with no move of the host left a step changes nothing (log 3). -/
def Obligations.StepWithoutMoveChangesNothing : Prop := ∀ s : State, s.script = [] → step s = .next s

/-- R32, R33: what a host read returns for every register number, with no side effect but the record of the value. -/
def Obligations.HostReadsReturnRegisters : Prop :=
  ∀ (s : State) (n : Nat) (rest : List HostMove), s.script = .read n :: rest →
    ∃ v, step s = .next { s with script := rest, reads := s.reads ++ [v] } ∧
      (n = 0x00 → v = 0) ∧ (n = 0x01 → v = statusWord s) ∧ (n = 0x02 → v = s.err.setWidth 64) ∧
      (n = 0x03 → v = s.bsize) ∧ (n = 0x04 → v = s.rounds) ∧ (n = 0x05 → v = s.cfgnw) ∧ (n = 0x06 → v = s.cfgnr) ∧
      (n = 0x07 → v = s.pos) ∧ (n = 0x08 → v = s.outlen) ∧ (n = 0x09 → v = s.tree.setWidth 64) ∧
      (n = 0x0A → v = s.ilen) ∧ (n = 0x0B → v = s.olen) ∧ (n = 0x0C → v = s.bpos) ∧ (n = 0x0D → v = s.houtlen) ∧
      (n = 0x10 → v = s.twk0) ∧ (n = 0x11 → v = s.twk1) ∧
      (∀ i : Fin 16, n = 0x20 + i.val → v = s.key[i]) ∧
      (∀ i : Fin 16, n = 0x30 + i.val → v = s.blk[i]) ∧
      (∀ i : Fin 16, n = 0x40 + i.val → v = s.res[i]) ∧
      (∀ j, j < 4 → n = 0x50 + j → ∀ k, k < 8 → wordByte v k = s.cb.toList.getD (8 * j + k) 0) ∧
      (∀ j, j < obufMax / 8 → n = 0x60 + j → ∀ k, k < 8 → wordByte v k = memRead s.obuf (8 * j + k)) ∧
      (n = 0x0E ∨ n = 0x0F ∨ (0x12 ≤ n ∧ n < 0x20) ∨ (0x54 ≤ n ∧ n < 0x60) ∨ 0x60 + obufMax / 8 ≤ n → v = 0)

/-- R33, R163: a host write other than to CMD changes exactly its register, in every condition of the engine; a read-only or
reserved register, and TREE's reserved bits, ignore it. -/
def Obligations.HostWritesChangeOneRegister : Prop :=
  ∀ (s : State) (n : Nat) (v : Word) (rest : List HostMove), s.script = .write n v :: rest → n ≠ 0 →
    ∃ t, step s = .next t ∧
      (n = 0x03 → t = { s with script := rest, bsize := v }) ∧
      (n = 0x04 → t = { s with script := rest, rounds := v }) ∧
      (n = 0x07 → t = { s with script := rest, pos := v }) ∧
      (n = 0x08 → t = { s with script := rest, outlen := v }) ∧
      (n = 0x09 → t = { s with script := rest, tree := v.extractLsb' 0 24 }) ∧
      (n = 0x0A → t = { s with script := rest, ilen := v }) ∧
      (n = 0x10 → t = { s with script := rest, twk0 := v }) ∧
      (n = 0x11 → t = { s with script := rest, twk1 := v }) ∧
      (∀ i : Fin 16, n = 0x20 + i.val → t = { s with script := rest, key := s.key.set i.val v }) ∧
      (∀ i : Fin 16, n = 0x30 + i.val → t = { s with script := rest, blk := s.blk.set i.val v }) ∧
      (n ∉ [0x03, 0x04, 0x07, 0x08, 0x09, 0x0A, 0x10, 0x11] → ¬(0x20 ≤ n ∧ n < 0x40) →
        t = { s with script := rest })

/-- R23: every field of STATUS at its bits, and every other bit 0. -/
def Obligations.StatusWordLayout : Prop :=
  ∀ s : State, (statusWord s).getLsbD 0 = s.cfgv ∧ (statusWord s).getLsbD 1 = s.ckeyed ∧
    (statusWord s).getLsbD 2 = s.fault ∧ (statusWord s).getLsbD 3 = s.olmShort ∧
    (statusWord s).getLsbD 4 = s.olmTrunc ∧ (statusWord s).getLsbD 5 = s.firstpend ∧
    (statusWord s).getLsbD 6 = s.cfgdone ∧ (statusWord s).getLsbD 7 = false ∧
    (s.phase = .idle → (statusWord s).extractLsb' 8 4 = 0) ∧ (s.phase = .new → (statusWord s).extractLsb' 8 4 = 1) ∧
    (s.phase = .keyed → (statusWord s).extractLsb' 8 4 = 2) ∧ (s.phase = .pre → (statusWord s).extractLsb' 8 4 = 3) ∧
    (s.phase = .msg → (statusWord s).extractLsb' 8 4 = 4) ∧ (s.phase = .msgdone → (statusWord s).extractLsb' 8 4 = 5) ∧
    (s.phase = .done → (statusWord s).extractLsb' 8 4 = 6) ∧ (statusWord s).extractLsb' 12 4 = 0 ∧
    (statusWord s).extractLsb' 16 6 = s.lasttype ∧ (statusWord s).extractLsb' 22 42 = 0

/-- R161, R162: from every state, as many steps as the host has moves run the script to its end, with no stop, and return one
value for each read. -/
def Obligations.ScriptRunsToItsEnd : Prop :=
  ∀ s : State, ∃ t, core.run s.script.length s = .next t ∧ t.script = [] ∧
    ∃ vs, t.reads = s.reads ++ vs ∧ vs.length = (s.script.filter isRead).length

/-! ## Reset and invariants (spec/10_state.md R35, spec/70_reset_and_hazards.md R150, spec/93_implementation_defined.md) -/

/-- R35, R150: hardware reset puts every piece of architectural state to zero, from any state; only the host's own script
and record of reads, which are no state of the engine, stay (log 3). -/
def Obligations.HardwareResetZeroesTheState : Prop :=
  ∀ (s : State) (rest : List HostMove), s.script = .hardwareReset :: rest →
    ∃ t, step s = .next t ∧ t = { State.reset with script := rest, reads := s.reads } ∧
      (∀ n, readReg (regOf n) t = 0) ∧ (∀ i : Fin 17, t.ks[i] = 0) ∧ (∀ i : Fin 3, t.ts[i] = 0) ∧
      (∀ i : Fin 16, t.cv[i] = 0) ∧ (∀ i : Fin 32, t.cb[i] = 0) ∧ (∀ k, memRead t.obuf k = 0) ∧ t.phase = .idle

/-- spec/93_implementation_defined.md (states that never occur): the invariant holds at reset. -/
def Obligations.ResetStateIsSound : Prop := Inv State.reset

/-- spec/93_implementation_defined.md, R21, R24, R26, R31, R100, R103, R105, R114: every step keeps the invariant: ERR matches
FAULT, the configuration is legal, the buffer is canonical, fits, and is 0 from OLEN on, the latched length fits, OLM_SHORT
is 0, and the sequencer's fields agree with PHASE. -/
def Obligations.StepKeepsSoundness : Prop := ∀ s t : State, Inv s → step s = .next t → Inv t

/-! ## Faults (spec/60_exceptions.md) -/

/-- R134: while FAULT = 1 every CMD write but exactly RESET is ignored; host reads and other host writes work as usual. -/
def Obligations.FaultedEngineIgnoresCommands : Prop :=
  ∀ (s : State) (rest : List HostMove), s.fault = true →
    (∀ w, s.script = .write 0 w :: rest → w ≠ 1 → step s = .next { s with script := rest }) ∧
    (∀ n, s.script = .read n :: rest →
      step s = .next { s with script := rest, reads := s.reads ++ [readReg (regOf n) s] }) ∧
    (∀ n v, s.script = .write n v :: rest → n ≠ 0 →
      step s = .next { writeReg (regOf n) v s with script := rest })

/-- R133: a step that raises a fault is a CMD write, and it leaves the state exactly as it was, plus FAULT and ERR. -/
def Obligations.FaultsArePrecise : Prop :=
  ∀ s t : State, s.fault = false → step s = .next t → t.fault = true →
    ∃ w rest, ∃ k : FaultKind, s.script = .write 0 w :: rest ∧
      t = { s with script := rest, fault := true, err := faultCode k }

/-- R135: FAULT goes from 1 to 0 only by hardware reset or the RESET command, after which ERR is 0, the sequencer is IDLE, and
the configuration and the host's registers are as they were. -/
def Obligations.OnlyResetLeavesTheFault : Prop :=
  ∀ s t : State, s.fault = true → step s = .next t → t.fault = false →
    (∃ rest, s.script = .hardwareReset :: rest) ∨
    (∃ rest, s.script = .write 0 1 :: rest ∧ t.err = 0 ∧ Cleared t ∧ t.phase = .idle ∧ ConfigurationKept s t ∧
      HostSideKept { s with script := rest } t)

/-- R137: the cases in which a command raises SequenceError (code 5), and no others. -/
def Obligations.SequenceErrorExactly : Prop :=
  ∀ (i : Instr) (s t : State), s.fault = false → exec i s = .next t →
    ((t.fault = true ∧ t.err = 5) ↔
      ((needsConfiguration i = true ∧ s.cfgv = false) ∨ ¬legalIn i s.phase s.lasttype ∨
        ((i = .cenc ∨ i = .cdec) ∧ s.ckeyed = false)))

/-- R132, R139: the exact conditions of the codes 1, 2, 3, 6 and 7, each with the checks that come before it passed, and no
code but 1, 2, 3, 5, 6, 7 from a command. -/
def Obligations.FaultConditionsExactly : Prop :=
  ∀ (i : Instr) (s t : State), s.fault = false → exec i s = .next t →
    ((t.fault = true ∧ t.err = 1) ↔ (i = .setcfg ∧ s.bsize ≠ 256 ∧ s.bsize ≠ 512 ∧ s.bsize ≠ 1024)) ∧
    ((t.fault = true ∧ t.err = 2) ↔
      (i = .setcfg ∧ (s.bsize = 256 ∨ s.bsize = 512 ∨ s.bsize = 1024) ∧
        (s.rounds = 0 ∨ s.rounds.toNat % 4 ≠ 0))) ∧
    ((t.fault = true ∧ t.err = 3) ↔ (i = .hinit ∧ s.cfgv = true ∧ s.outlen.toNat % 8 ≠ 0)) ∧
    ((t.fault = true ∧ t.err = 6) ↔
      ((i = .hkey ∨ i = .hprs ∨ i = .hpk ∨ i = .hkdf ∨ i = .hnon ∨ ∃ b, i = .hmfin b) ∧
        s.cfgv = true ∧ legalIn i s.phase s.lasttype ∧ blockBytes s < s.ilen.toNat)) ∧
    ((t.fault = true ∧ t.err = 7) ↔
      ((∃ tag p f l, i = .twenc tag p f l ∧ 63 < tag.toNat) ∨
       (i = .hinit ∧ s.cfgv = true ∧ s.outlen.toNat % 8 = 0 ∧
         (s.tree ≠ 0 ∨ obufMax < outputBlockCount s s.outlen * blockBytes s)) ∨
       (i = .hmblk ∧ s.cfgv = true ∧ legalIn i s.phase s.lasttype ∧ 2 ^ 64 - 1 < s.bpos.toNat + blockBytes s) ∨
       (∃ b, i = .hmfin b ∧ s.cfgv = true ∧ legalIn i s.phase s.lasttype ∧ s.ilen.toNat ≤ blockBytes s ∧
         ((s.ilen = 0 ∧ (s.firstpend = false ∨ b = true)) ∨ 2 ^ 64 - 1 < s.bpos.toNat + s.ilen.toNat)))) ∧
    (t.fault = true → t.err ∈ [1, 2, 3, 5, 6, 7])

/-! ## Control (spec/44_control.md) -/

/-- R120: NOP changes no state, in every condition; its only fault is IllegalCommand, when another bit of the command word
is set. -/
def Obligations.NopChangesNothing : Prop :=
  ∀ s : State, exec .nop s = .next s ∧ writeCmd 0 s = .next s ∧
    ∀ w : Word, w.extractLsb' 0 8 = 0 → w ≠ 0 → s.fault = false →
      writeCmd w s = .next { s with fault := true, err := 4 }

/-- R121, R135: RESET, in every state, clears what Clear() lists and FAULT and ERR, and changes nothing else; its opcode with
any other bit set is illegal, and ignored while FAULT = 1. -/
def Obligations.ResetCommandClears : Prop :=
  ∀ s : State, (∃ t, exec .reset s = .next t ∧ writeCmd 1 s = .next t ∧ Cleared t ∧ t.houtlen = 0 ∧
      t.firstpend = false ∧ t.phase = .idle ∧ t.fault = false ∧ t.err = 0 ∧ ConfigurationKept s t ∧
      HostSideKept s t) ∧
    ∀ w : Word, w.extractLsb' 0 8 = 1 → w ≠ 1 →
      (s.fault = false → writeCmd w s = .next { s with fault := true, err := 4 }) ∧
      (s.fault = true → writeCmd w s = .next s)

/-- R122: an accepted SETCFG runs Clear() and takes the configuration from BSIZE and ROUNDS, in every phase; a refused one
leaves the state as it was but for FAULT and ERR, the block size being checked first. -/
def Obligations.SetcfgSelectsConfiguration : Prop :=
  ∀ s : State, s.fault = false →
    ((s.bsize = 256 ∨ s.bsize = 512 ∨ s.bsize = 1024) → s.rounds ≠ 0 → s.rounds.toNat % 4 = 0 →
      ∃ t, exec .setcfg s = .next t ∧ t.cfgnw.toNat = s.bsize.toNat / 64 ∧ LegalBlockWords t.cfgnw ∧
        t.cfgnr = s.rounds ∧ t.cfgv = true ∧ Cleared t ∧ t.houtlen = 0 ∧ t.firstpend = false ∧ t.phase = .idle ∧
        t.fault = false ∧ t.err = s.err ∧ HostSideKept s t) ∧
    ((s.bsize ≠ 256 ∧ s.bsize ≠ 512 ∧ s.bsize ≠ 1024) → exec .setcfg s = .next { s with fault := true, err := 1 }) ∧
    ((s.bsize = 256 ∨ s.bsize = 512 ∨ s.bsize = 1024) → (s.rounds = 0 ∨ s.rounds.toNat % 4 ≠ 0) →
      exec .setcfg s = .next { s with fault := true, err := 2 })

/-! ## Cipher (spec/40_cipher.md) -/

/-- R73: Mix and Unmix, their inverse law at every rotation amount, and the rule's example; ROTL64 and ROTR64 are the
rotations of a 64-bit word. -/
def Obligations.MixAndUnmixAreInverse : Prop :=
  (∀ (x0 x1 : Word) (r : Nat), (mix x0 x1 r).1 = x0 + x1 ∧ (mix x0 x1 r).2 = rotl x1 r ^^^ (x0 + x1)) ∧
  (∀ (y0 y1 : Word) (r : Nat), (unmix y0 y1 r).2 = rotr (y1 ^^^ y0) r ∧
    (unmix y0 y1 r).1 = y0 - rotr (y1 ^^^ y0) r) ∧
  (∀ (x0 x1 : Word) (r : Nat), 0 < r → r < 64 →
    unmix (mix x0 x1 r).1 (mix x0 x1 r).2 r = (x0, x1) ∧ mix (unmix x0 x1 r).1 (unmix x0 x1 r).2 r = (x0, x1) ∧
    rotl x0 r = x0.rotateLeft r ∧ rotr x0 r = x0.rotateRight r) ∧
  mix 1 2 14 = (3, 0x8003)

/-- R64, R65: for each block size the permutation is one, the inverse table undoes it both ways, and every rotation amount is
1 to 63, with NW/2 amounts in each of the eight rows. -/
def Obligations.CipherTablesAreSound : Prop :=
  ∀ nw ∈ [4, 8, 16], (perm nw).Perm (List.range nw) ∧
    (∀ i, i < nw → (permInv nw).getD ((perm nw).getD i 0) 0 = i ∧ (perm nw).getD ((permInv nw).getD i 0) 0 = i) ∧
    ∀ d, (rotRow nw d).length = nw / 2 ∧ ∀ r ∈ rotRow nw d, 0 < r ∧ r < 64

/-- R62, R63: the key schedule is the key words and the parity word; the tweak schedule is t0, t1, t0 XOR t1. -/
def Obligations.SchedulesAreDerived : Prop :=
  (∀ k : List Word, (keySchedule k).length = k.length + 1 ∧ (∀ i, i < k.length → (keySchedule k)[i]? = k[i]?) ∧
    (keySchedule k)[k.length]? = some (0x1BD11BDAA9FC1A22 ^^^ k.foldr (· ^^^ ·) 0)) ∧
  (∀ t0 t1 : Word, (tweakSchedule t0 t1).toList = [t0, t1, t0 ^^^ t1])

/-- R66: every word of every subkey set. -/
def Obligations.SubkeyWordsFollowTheSchedules : Prop :=
  ∀ (nw : Nat) (ks : List Word) (ts : Vector Word 3) (n i : Nat), nw ∈ [4, 8, 16] → ks.length = nw + 1 → i < nw →
    ∃ base, ks[(n + i) % (nw + 1)]? = some base ∧
      (i ≤ nw - 4 → (subkey nw ks ts n)[i]? = some base) ∧
      (i = nw - 3 → (subkey nw ks ts n)[i]? = some (base + ts.toList.getD (n % 3) 0)) ∧
      (i = nw - 2 → (subkey nw ks ts n)[i]? = some (base + ts.toList.getD ((n + 1) % 3) 0)) ∧
      (i = nw - 1 → (subkey nw ks ts n)[i]? = some (base + BitVec.ofNat 64 n))

/-- R69: encryption and decryption are exact inverses, both ways, for every block size, every round count, and any words in
the schedules. -/
def Obligations.CipherRoundTrip : Prop :=
  ∀ (nw nr : Nat) (ks : List Word) (ts : Vector Word 3) (x : List Word), nw ∈ [4, 8, 16] → x.length = nw →
    decrypt nw nr ks ts (encrypt nw nr ks ts x) = x ∧ encrypt nw nr ks ts (decrypt nw nr ks ts x) = x

/-- spec/95_test_vectors.md section 3, V1 to V9, all of them: every block size, the architected and two other round counts,
zero, all-ones and patterned keys, tweaks and plaintexts. They rest on the tables of log 5. -/
def Obligations.CipherGivesThePrintedVectors : Prop :=
  encrypt 4 72 (keySchedule (List.replicate 4 0)) (tweakSchedule 0 0) (List.replicate 4 0) =
    [0x94EEEA8B1F2ADA84, 0xADF103313EAE6670, 0x952419A1F4B16D53, 0xD83F13E63C9F6B11] ∧
  encrypt 8 72 (keySchedule (List.replicate 8 0)) (tweakSchedule 0 0) (List.replicate 8 0) =
    [0xBC2560EFC6BBA2B1, 0xE3361F162238EB40, 0xFB8631EE0ABBD175, 0x7B9479D4C5479ED1, 0xCFF0356E58F8C27B,
     0xB1B7B08430F0E7F7, 0xE9A380A56139ABF1, 0xBE7B6D4AA11EB47E] ∧
  encrypt 16 80 (keySchedule (List.replicate 16 0)) (tweakSchedule 0 0) (List.replicate 16 0) =
    [0x04B3053D0A3D5CF0, 0x0136E0D1C7DD85F7, 0x067B212F6EA78A5C, 0x0DA9C10B4C54E1C6, 0x0F4EC27394CBACF0,
     0x32437F0568EA4FD5, 0xCFF56D1D7654B49C, 0xA2D5FB14369B2E7B, 0x540306B460472E0B, 0x71C18254BCEA820D,
     0xC36B4068BEAF32C8, 0xFA4329597A360095, 0xC4A36C28434A5B9A, 0xD54331444B1046CF, 0xDF11834830B2A460,
     0x1E39E8DFE1F7EE4F] ∧
  encrypt 4 72 (keySchedule (blockOf 4 ((List.range 32).map fun i => BitVec.ofNat 8 (0x10 + i))))
      (tweakSchedule 0x0706050403020100 0x0F0E0D0C0B0A0908)
      (blockOf 4 ((List.range 32).map fun i => BitVec.ofNat 8 (0xFF - i))) =
    [0xDF8FEA0EFF91D0E0, 0xD50AD82EE69281C9, 0x76F48D58085D869D, 0xDF975E95B5567065] ∧
  encrypt 8 72 (keySchedule (blockOf 8 ((List.range 64).map fun i => BitVec.ofNat 8 (0x10 + i))))
      (tweakSchedule 0x0706050403020100 0x0F0E0D0C0B0A0908)
      (blockOf 8 ((List.range 64).map fun i => BitVec.ofNat 8 (0xFF - i))) =
    [0x2C5AD426964304E3, 0x9A2436D6D8CA01B4, 0xDD456DB00E333863, 0x794725970EB9368B, 0x043546998D0A2A27,
     0x25A7C918EA204478, 0x346201A1FEDF11AF, 0x3DAF1C5C3D672789] ∧
  encrypt 16 80 (keySchedule (blockOf 16 ((List.range 128).map fun i => BitVec.ofNat 8 (0x10 + i))))
      (tweakSchedule 0x0706050403020100 0x0F0E0D0C0B0A0908)
      (blockOf 16 ((List.range 128).map fun i => BitVec.ofNat 8 (0xFF - i))) =
    [0xB0C33CD7DB4D65A6, 0xBC49A85A1077D75D, 0x6855FCAFEA7293E4, 0x1C5385AB1B7754D2, 0x30E4AAFFE780F794,
     0xE1BBEE708CAFD8D5, 0x9CA837B7423B0F76, 0xBD1403670D4963B3, 0x451F2E3CE61EA48A, 0xB360832F9277D4FB,
     0x0AAFC7A65E12D688, 0xC8906E79016D05D7, 0xB316570A15F41333, 0x74E98A2869F5D50E, 0x57CE6F9247432BCE,
     0xDE7CDD77215144DE] ∧
  encrypt 4 4 (keySchedule [0, 0, 0, 0]) (tweakSchedule 0 0) [1, 2, 3, 4] =
    [0x0A704A0070090168, 0xA68022C0450C0978, 0x06700040850C0168, 0xA04A25E91A95260B] ∧
  encrypt 4 8 (keySchedule [0, 0, 0, 0]) (tweakSchedule 0 0) [1, 2, 3, 4] =
    [0x253992255956F0E8, 0xCE08557A49F4F4CF, 0xDBE9DC392ACBA1AA, 0x44808A6D29680C91] ∧
  encrypt 4 72 (keySchedule (List.replicate 4 0xFFFFFFFFFFFFFFFF)) (tweakSchedule 0xFFFFFFFFFFFFFFFF 0xFFFFFFFFFFFFFFFF)
      (List.replicate 4 0xFFFFFFFFFFFFFFFF) =
    [0x6577EC044C721831, 0x33FB570832CBC077, 0x35FB7154195F24E5, 0x8B989BB969F1A02B]

/-- R70: CINIT derives KS[0..NW] and TS from KEY and TWK, sets CKEYED, and changes nothing else; not configured or inside a
hash it is SequenceError. -/
def Obligations.CinitDerivesSchedules : Prop :=
  ∀ s : State, s.fault = false →
    (s.cfgv = false ∨ ¬OutsideHash s → Raises .cinit 5 s) ∧
    (Runnable s → OutsideHash s →
      ∃ t, exec .cinit s = .next t ∧ ksWords t = keySchedule (keyWords s) ∧ t.ts = tweakSchedule s.twk0 s.twk1 ∧
        t.ckeyed = true ∧ HighWordsKept s t ∧ { t with ks := s.ks, ts := s.ts, ckeyed := s.ckeyed } = s)

/-- R71: CENC writes Encrypt(KS, TS, BLK) to RES[0..NW−1] and changes nothing else; not configured, inside a hash or not keyed it
is SequenceError. -/
def Obligations.CencWritesCiphertext : Prop :=
  ∀ s : State, s.fault = false →
    (s.cfgv = false ∨ ¬OutsideHash s ∨ s.ckeyed = false → Raises .cenc 5 s) ∧
    (Runnable s → OutsideHash s → s.ckeyed = true →
      ∃ t, exec .cenc s = .next t ∧
        t.res.toList.take (blockWords s) = encrypt (blockWords s) (roundCount s) (ksWords s) s.ts (blkWords s) ∧
        HighWordsKept s t ∧ { t with res := s.res } = s)

/-- R72: CDEC writes Decrypt(KS, TS, BLK) to RES[0..NW−1] and changes nothing else; not configured, inside a hash or not
keyed it is SequenceError; and BLK <- RES after a CENC and then CDEC give the plaintext back in RES. -/
def Obligations.CdecWritesPlaintext : Prop :=
  ∀ s : State, s.fault = false →
    (s.cfgv = false ∨ ¬OutsideHash s ∨ s.ckeyed = false → Raises .cdec 5 s) ∧
    (Runnable s → OutsideHash s → s.ckeyed = true →
      ∃ t, exec .cdec s = .next t ∧
        t.res.toList.take (blockWords s) = decrypt (blockWords s) (roundCount s) (ksWords s) s.ts (blkWords s) ∧
        HighWordsKept s t ∧ { t with res := s.res } = s) ∧
    (Runnable s → OutsideHash s → s.ckeyed = true →
      ∃ t u, exec .cenc s = .next t ∧ exec .cdec { t with blk := t.res } = .next u ∧
        u.res.toList.take (blockWords s) = blkWords s)

/-! ## UBI chaining (spec/41_ubi.md) -/

/-- R80: UINIT loads CV[0..NW−1] from BLK and changes nothing else; not configured or inside a hash it is SequenceError. -/
def Obligations.UinitLoadsChainingValue : Prop :=
  ∀ s : State, s.fault = false →
    (s.cfgv = false ∨ ¬OutsideHash s → Raises .uinit 5 s) ∧
    (Runnable s → OutsideHash s →
      ∃ t, exec .uinit s = .next t ∧ cvWords t = blkWords s ∧ HighWordsKept s t ∧ { t with cv := s.cv } = s)

/-- R81: UINITZ zeroes CV[0..NW−1] and changes nothing else; not configured or inside a hash it is SequenceError. -/
def Obligations.UinitzZeroesChainingValue : Prop :=
  ∀ s : State, s.fault = false →
    (s.cfgv = false ∨ ¬OutsideHash s → Raises .uinitz 5 s) ∧
    (Runnable s → OutsideHash s →
      ∃ t, exec .uinitz s = .next t ∧ (∀ i : Fin 16, i.val < blockWords s → t.cv[i] = 0) ∧ HighWordsKept s t ∧
        { t with cv := s.cv } = s)

/-- R82, R83, R85: UUPD keys the cipher with the chaining value from before the step, encrypts BLK under TWK as it stands,
and replaces CV by ciphertext XOR block; it writes KS, TS, CKEYED and CV and nothing else; not configured or inside a hash
it is SequenceError. -/
def Obligations.UupdChainsOneBlock : Prop :=
  ∀ s : State, s.fault = false →
    (s.cfgv = false ∨ ¬OutsideHash s → Raises .uupd 5 s) ∧
    (Runnable s → OutsideHash s →
      ∃ t, exec .uupd s = .next t ∧ ksWords t = keySchedule (cvWords s) ∧ t.ts = tweakSchedule s.twk0 s.twk1 ∧
        t.ckeyed = true ∧
        cvWords t = List.zipWith (· ^^^ ·)
          (encrypt (blockWords s) (roundCount s) (keySchedule (cvWords s)) (tweakSchedule s.twk0 s.twk1) (blkWords s))
          (blkWords s) ∧
        HighWordsKept s t ∧ { t with ks := s.ks, ts := s.ts, ckeyed := s.ckeyed, cv := s.cv } = s)

/-- R84: UOUT copies CV[0..NW−1] to RES, in every phase, and changes nothing else; not configured it is SequenceError. -/
def Obligations.UoutCopiesChainingValue : Prop :=
  ∀ s : State, s.fault = false →
    (s.cfgv = false → Raises .uout 5 s) ∧
    (Runnable s →
      ∃ t, exec .uout s = .next t ∧ t.res.toList.take (blockWords s) = cvWords s ∧ HighWordsKept s t ∧
        { t with res := s.res } = s)

/-! ## Tweak encoder and configuration serializer (spec/42_tweak_config.md) -/

/-- R90, R91: the fields of the tweak pair, and that they determine it. -/
def Obligations.TweakWordLayout : Prop :=
  (∀ (l f p : Bool) (ty : BitVec 6) (pos : Word), (tweakEncode l f ty p pos).1 = pos ∧
    (tweakEncode l f ty p pos).2.getLsbD 63 = l ∧ (tweakEncode l f ty p pos).2.getLsbD 62 = f ∧
    (tweakEncode l f ty p pos).2.extractLsb' 56 6 = ty ∧ (tweakEncode l f ty p pos).2.getLsbD 55 = p ∧
    (tweakEncode l f ty p pos).2.extractLsb' 0 55 = 0) ∧
  (∀ (l f p l' f' p' : Bool) (ty ty' : BitVec 6) (pos pos' : Word),
    tweakEncode l f ty p pos = tweakEncode l' f' ty' p' pos' → l = l' ∧ f = f' ∧ ty = ty' ∧ p = p' ∧ pos = pos')

/-- R92: TWENC with TYPE at most 63 writes the pair to TWK and nothing else, in every unfaulted condition; a larger TYPE is
OperandRange. -/
def Obligations.TwencBuildsTweak : Prop :=
  ∀ (tag : BitVec 8) (p f l : Bool) (s : State), s.fault = false →
    (tag.toNat ≤ 63 → ∃ t, exec (.twenc tag p f l) s = .next t ∧ t.twk0 = s.pos ∧ t.twk1.getLsbD 63 = l ∧
      t.twk1.getLsbD 62 = f ∧ t.twk1.extractLsb' 56 6 = tag.extractLsb' 0 6 ∧ t.twk1.getLsbD 55 = p ∧
      t.twk1.extractLsb' 0 55 = 0 ∧ { t with twk0 := s.twk0, twk1 := s.twk1 } = s) ∧
    (63 < tag.toNat → exec (.twenc tag p f l) s = .next { s with fault := true, err := 7 })

/-- R95: the bytes of the configuration block and the four words CBW. -/
def Obligations.ConfigBlockLayout : Prop :=
  ∀ (o : Word) (leaf fan height : Byte),
    (configBytes o leaf fan height).toList =
      [0x53, 0x48, 0x41, 0x33, 0x01, 0x00, 0x00, 0x00] ++ (List.range 8).map (fun k => wordByte o k)
        ++ [leaf, fan, height] ++ List.replicate 13 0 ∧
    wordsOf 4 (configBytes o leaf fan height).toList =
      [0x0000000133414853, o,
       leaf.setWidth 64 + 2 ^ 8 * fan.setWidth 64 + 2 ^ 16 * height.setWidth 64, 0]

/-- R96: CFGSER serializes OUTLEN and TREE as they stand into CB and changes nothing else, in every unfaulted condition. -/
def Obligations.CfgserSerializes : Prop :=
  ∀ s : State, s.fault = false →
    ∃ t, exec .cfgser s = .next t ∧
      t.cb = configBytes s.outlen (s.tree.extractLsb' 0 8) (s.tree.extractLsb' 8 8) (s.tree.extractLsb' 16 8) ∧
      { t with cb := s.cb } = s

/-! ## Hash sequencer (spec/43_hash_sequencer.md) -/

/-- R100: in a configured engine a command in a phase not listed for it raises SequenceError and changes nothing; a command
that does not fault leaves PHASE and LASTTYPE as the table says. -/
def Obligations.PhaseTableIsFollowed : Prop :=
  ∀ (i : Instr) (s t : State), s.fault = false → exec i s = .next t →
    (s.cfgv = true → ¬legalIn i s.phase s.lasttype → t = { s with fault := true, err := 5 }) ∧
    (t.fault = false → t.phase = phaseAfter i s.phase ∧ t.lasttype = lasttypeAfter i s.lasttype)

/-- R116, R103: within a hash the passes come in ascending order of type tag; only message blocks repeat a tag, the key pass,
with tag 0, comes first of all, and the configuration pass, with tag 4, comes at most once, between the passes of the tags
below and above it: CFGDONE stays 1 until the hash is cleared away. -/
def Obligations.PassesAscendByTag : Prop :=
  ∀ (i : Instr) (s t : State), Inv s → s.fault = false → exec i s = .next t → t.fault = false →
    (i ∈ [Instr.hprs, .hpk, .hkdf, .hnon, .hout] → s.lasttype < t.lasttype) ∧
    (i = .hkey → s.phase = .new ∧ s.cfgdone = false ∧ t.lasttype = 0) ∧
    ((i = .hmblk ∨ ∃ b, i = .hmfin b) → t.lasttype = 48 ∧ (s.lasttype < 48 ∨ s.phase = .msg)) ∧
    (s.cfgdone = false → t.cfgdone = true → s.lasttype < 4 ∧ 4 < t.lasttype) ∧
    (s.cfgdone = true → t.cfgdone = false → i ∈ [Instr.reset, .setcfg, .hinit])

/-- R105: HINIT starts a hash in every phase: Clear(), the latched output length, FIRSTPEND, PHASE = NEW; and its four
faults, in the order of its checks. -/
def Obligations.HinitStartsHash : Prop :=
  ∀ s : State, s.fault = false →
    (s.cfgv = false → Raises .hinit 5 s) ∧
    (s.cfgv = true → s.outlen.toNat % 8 ≠ 0 → Raises .hinit 3 s) ∧
    (s.cfgv = true → s.outlen.toNat % 8 = 0 → s.tree ≠ 0 → Raises .hinit 7 s) ∧
    (s.cfgv = true → s.outlen.toNat % 8 = 0 → s.tree = 0 →
      obufMax < outputBlockCount s s.outlen * blockBytes s → Raises .hinit 7 s) ∧
    (Runnable s → s.outlen.toNat % 8 = 0 → s.tree = 0 → outputBlockCount s s.outlen * blockBytes s ≤ obufMax →
      ∃ t, exec .hinit s = .next t ∧ Cleared t ∧ t.houtlen = s.outlen ∧ t.firstpend = true ∧ t.phase = .new ∧
        t.fault = false ∧ t.err = s.err ∧ ConfigurationKept s t ∧ HostSideKept s t)

/-- R106, R102, R104: HKEY absorbs the ILEN bytes of BLK as one pass with tag 0; and its faults, in the order of its
checks. -/
def Obligations.HkeyAbsorbsKey : Prop :=
  ∀ s : State, s.fault = false →
    (s.cfgv = false ∨ s.phase ≠ .new → Raises .hkey 5 s) ∧
    (s.cfgv = true → s.phase = .new → blockBytes s < s.ilen.toNat → Raises .hkey 6 s) ∧
    (Runnable s → s.phase = .new → s.ilen.toNat ≤ blockBytes s →
      ∃ t, exec .hkey s = .next t ∧ t.twk0 = s.ilen ∧ t.twk1 = 0xC000000000000000 ∧
        ksWords t = keySchedule (cvWords s) ∧ t.ts = tweakSchedule s.ilen 0xC000000000000000 ∧ t.ckeyed = true ∧
        cvWords t = hashStep (blockWords s) (roundCount s) (cvWords s) true true 0 false s.ilen
          (blockOf (blockWords s) ((bytesOf s.blk.toList).take s.ilen.toNat)) ∧
        t.phase = .keyed ∧ t.lasttype = 0 ∧ HighWordsKept s t ∧
        { t with
          twk0 := s.twk0, twk1 := s.twk1, ks := s.ks, ts := s.ts, ckeyed := s.ckeyed, cv := s.cv, phase := s.phase,
          lasttype := s.lasttype } = s)

/-- R107 to R110, R102 to R104: HPRS, HPK, HKDF and HNON absorb the ILEN bytes of BLK as one pass with their own tag, after
the configuration pass (tag 4, position 32, the block of HOUTLEN and a zero tree) if this hash has not had it; and their
faults, in the order of their checks. -/
def Obligations.OptionalInputsAreAbsorbed : Prop :=
  ∀ (i : Instr) (tag : BitVec 6) (t1 : Word) (s : State),
    (i, tag, t1) ∈ ([(.hprs, 8, 0xC800000000000000), (.hpk, 12, 0xCC00000000000000), (.hkdf, 16, 0xD000000000000000),
      (.hnon, 20, 0xD400000000000000)] : List (Instr × BitVec 6 × Word)) →
    s.fault = false →
    (s.cfgv = false ∨ ¬(s.phase = .new ∨ s.phase = .keyed ∨ (s.phase = .pre ∧ s.lasttype < tag)) → Raises i 5 s) ∧
    (s.cfgv = true → (s.phase = .new ∨ s.phase = .keyed ∨ (s.phase = .pre ∧ s.lasttype < tag)) →
      blockBytes s < s.ilen.toNat → Raises i 6 s) ∧
    (Runnable s → (s.phase = .new ∨ s.phase = .keyed ∨ (s.phase = .pre ∧ s.lasttype < tag)) →
      s.ilen.toNat ≤ blockBytes s →
      ∃ t g, exec i s = .next t ∧
        g = (if s.cfgdone then cvWords s else
          hashStep (blockWords s) (roundCount s) (cvWords s) true true 4 false 32
            (blockOf (blockWords s) (configBytes s.houtlen 0 0 0).toList)) ∧
        t.cb = (if s.cfgdone then s.cb else configBytes s.houtlen 0 0 0) ∧ t.cfgdone = true ∧
        t.twk0 = s.ilen ∧ t.twk1 = t1 ∧ ksWords t = keySchedule g ∧ t.ts = tweakSchedule s.ilen t1 ∧ t.ckeyed = true ∧
        cvWords t = hashStep (blockWords s) (roundCount s) g true true tag false s.ilen
          (blockOf (blockWords s) ((bytesOf s.blk.toList).take s.ilen.toNat)) ∧
        t.phase = .pre ∧ t.lasttype = tag ∧ HighWordsKept s t ∧
        { t with
          twk0 := s.twk0, twk1 := s.twk1, ks := s.ks, ts := s.ts, ckeyed := s.ckeyed, cv := s.cv, cb := s.cb,
          cfgdone := s.cfgdone, phase := s.phase, lasttype := s.lasttype } = s)

/-- R111, R102, R103: HMBLK absorbs all NB bytes of BLK as a non-final message block at the advanced BPOS, first exactly
when FIRSTPEND was set; and its faults, in the order of its checks. -/
def Obligations.HmblkAbsorbsFullBlock : Prop :=
  ∀ s : State, s.fault = false →
    (s.cfgv = false ∨ ¬TakesMessage s → Raises .hmblk 5 s) ∧
    (s.cfgv = true → TakesMessage s → 2 ^ 64 - 1 < s.bpos.toNat + blockBytes s → Raises .hmblk 7 s) ∧
    (Runnable s → TakesMessage s → s.bpos.toNat + blockBytes s ≤ 2 ^ 64 - 1 →
      ∃ t g, exec .hmblk s = .next t ∧
        g = (if s.cfgdone then cvWords s else
          hashStep (blockWords s) (roundCount s) (cvWords s) true true 4 false 32
            (blockOf (blockWords s) (configBytes s.houtlen 0 0 0).toList)) ∧
        t.cb = (if s.cfgdone then s.cb else configBytes s.houtlen 0 0 0) ∧ t.cfgdone = true ∧
        t.bpos.toNat = s.bpos.toNat + blockBytes s ∧ t.twk0 = t.bpos ∧
        t.twk1 = (if s.firstpend then 0x7000000000000000 else 0x3000000000000000) ∧
        ksWords t = keySchedule g ∧ t.ts = tweakSchedule t.twk0 t.twk1 ∧ t.ckeyed = true ∧
        cvWords t = hashStep (blockWords s) (roundCount s) g false s.firstpend 48 false t.bpos (blkWords s) ∧
        t.firstpend = false ∧ t.phase = .msg ∧ t.lasttype = 48 ∧ HighWordsKept s t ∧
        { t with
          twk0 := s.twk0, twk1 := s.twk1, ks := s.ks, ts := s.ts, ckeyed := s.ckeyed, cv := s.cv, cb := s.cb,
          cfgdone := s.cfgdone, bpos := s.bpos, firstpend := s.firstpend, phase := s.phase,
          lasttype := s.lasttype } = s)

/-- R112, R102, R103: HMFIN absorbs the ILEN bytes of BLK, zero-padded, as the final message block; BITPAD goes into the
tweak and nowhere else; and its faults, in the order of its checks. -/
def Obligations.HmfinAbsorbsLastBlock : Prop :=
  ∀ (b : Bool) (s : State), s.fault = false →
    (s.cfgv = false ∨ ¬TakesMessage s → Raises (.hmfin b) 5 s) ∧
    (s.cfgv = true → TakesMessage s → blockBytes s < s.ilen.toNat → Raises (.hmfin b) 6 s) ∧
    (s.cfgv = true → TakesMessage s → s.ilen.toNat ≤ blockBytes s →
      (s.ilen = 0 ∧ (s.firstpend = false ∨ b = true)) ∨ 2 ^ 64 - 1 < s.bpos.toNat + s.ilen.toNat →
      Raises (.hmfin b) 7 s) ∧
    (Runnable s → TakesMessage s → s.ilen.toNat ≤ blockBytes s →
      (s.ilen ≠ 0 ∨ (s.firstpend = true ∧ b = false)) → s.bpos.toNat + s.ilen.toNat ≤ 2 ^ 64 - 1 →
      ∃ t g, exec (.hmfin b) s = .next t ∧
        g = (if s.cfgdone then cvWords s else
          hashStep (blockWords s) (roundCount s) (cvWords s) true true 4 false 32
            (blockOf (blockWords s) (configBytes s.houtlen 0 0 0).toList)) ∧
        t.cb = (if s.cfgdone then s.cb else configBytes s.houtlen 0 0 0) ∧ t.cfgdone = true ∧
        t.bpos.toNat = s.bpos.toNat + s.ilen.toNat ∧ t.twk0 = t.bpos ∧
        t.twk1 = (if s.firstpend then 0xF000000000000000 else 0xB000000000000000) |||
          (if b then 0x0080000000000000 else 0) ∧
        ksWords t = keySchedule g ∧ t.ts = tweakSchedule t.twk0 t.twk1 ∧ t.ckeyed = true ∧
        cvWords t = hashStep (blockWords s) (roundCount s) g true s.firstpend 48 b t.bpos
          (blockOf (blockWords s) ((bytesOf s.blk.toList).take s.ilen.toNat)) ∧
        t.firstpend = false ∧ t.phase = .msgdone ∧ t.lasttype = 48 ∧ HighWordsKept s t ∧
        { t with
          twk0 := s.twk0, twk1 := s.twk1, ks := s.ks, ts := s.ts, ckeyed := s.ckeyed, cv := s.cv, cb := s.cb,
          cfgdone := s.cfgdone, bpos := s.bpos, firstpend := s.firstpend, phase := s.phase,
          lasttype := s.lasttype } = s)

/-- R113, R102: HOUT chains the output blocks (tag 63, block i being i, 0, ..., 0) from the chaining value the message pass
left, `g i` being the chaining value after i of them, delivers the first HOUTLEN / 8
of their bytes, zeroes the rest of OBUF, and flags truncation; OLM_SHORT is never set by it; not configured or outside
MSGDONE it is SequenceError. For outputs of more than one block the digest depends on the open OUTPOS (log 2). -/
def Obligations.HoutDeliversDigest : Prop :=
  ∀ s : State, s.fault = false →
    (s.cfgv = false ∨ s.phase ≠ .msgdone → Raises .hout 5 s) ∧
    (Runnable s → s.phase = .msgdone →
      ∃ (t : State) (n : Nat) (g : Nat → List Word) (raw : List Byte), exec .hout s = .next t ∧
      n = ceilDiv s.houtlen.toNat (64 * blockWords s) ∧ g 0 = cvWords s ∧
      (∀ i, i < n → g (i + 1) = hashStep (blockWords s) (roundCount s) (g i) (decide (i + 1 = n)) (decide (i = 0)) 63 false
        (if i = 0 then 8 else outPos i) (BitVec.ofNat 64 i :: List.replicate (blockWords s - 1) 0)) ∧
      raw = (List.range n).flatMap (fun i => bytesOf (g (i + 1))) ∧ raw.length = n * blockBytes s ∧
      s.houtlen.toNat / 8 ≤ raw.length ∧
      (∀ k, k < s.houtlen.toNat / 8 → memRead t.obuf k = raw.getD k 0) ∧
      (∀ k, s.houtlen.toNat / 8 ≤ k → memRead t.obuf k = 0) ∧
      t.obuf.wf = true ∧ t.olen.toNat = s.houtlen.toNat / 8 ∧ t.olmShort = s.olmShort ∧
      t.olmTrunc = (s.olmTrunc || decide (s.houtlen.toNat / 8 < n * blockBytes s)) ∧
      cvWords t = g n ∧
      (n = 0 → t.twk0 = s.twk0 ∧ t.twk1 = s.twk1 ∧ t.ks = s.ks ∧ t.ts = s.ts ∧ t.ckeyed = s.ckeyed) ∧
      (∀ m, n = m + 1 →
        t.twk0 = (if m = 0 then 8 else outPos m) ∧
        t.twk1 = (if m = 0 then 0xFF00000000000000 else 0xBF00000000000000) ∧
        ksWords t = keySchedule (g m) ∧ t.ts = tweakSchedule t.twk0 t.twk1 ∧ t.ckeyed = true) ∧
      t.phase = .done ∧ t.lasttype = 63 ∧ HighWordsKept s t ∧
      { t with
        twk0 := s.twk0, twk1 := s.twk1, ks := s.ks, ts := s.ts, ckeyed := s.ckeyed, cv := s.cv, obuf := s.obuf,
        olen := s.olen, olmShort := s.olmShort, olmTrunc := s.olmTrunc, phase := s.phase, lasttype := s.lasttype } = s)

/-- R114: what delivering the generated bytes `raw` does, for any `raw` and any wanted byte count: a shortfall sets OLM_SHORT
and keeps all of `raw`, an excess sets OLM_TRUNC and keeps its first bytes, neither is a fault, the rest of OBUF is zero, and
OLEN is the count of bytes kept. -/
def Obligations.TruncationAndShortfall : Prop :=
  ∀ (want : Nat) (raw : List Byte) (s : State), want < 2 ^ 64 →
    ∃ out, (raw.length ≤ want → out = raw) ∧ (want < raw.length → out = raw.take want ∧ out.length = want) ∧
      (∀ k, k < out.length → memRead (deliver want raw s).obuf k = out.getD k 0) ∧
      (∀ k, out.length ≤ k → memRead (deliver want raw s).obuf k = 0) ∧
      (deliver want raw s).obuf.wf = true ∧ (deliver want raw s).olen.toNat = out.length ∧
      (deliver want raw s).olmShort = (s.olmShort || decide (raw.length < want)) ∧
      (deliver want raw s).olmTrunc = (s.olmTrunc || decide (want < raw.length)) ∧
      { deliver want raw s with
        obuf := s.obuf, olen := s.olen, olmShort := s.olmShort, olmTrunc := s.olmTrunc } = s

/-! ## Pseudo-commands and the hash as one function (spec/30_encoding.md R55 to R59, R117) -/

/-- R59: ENCRYPT and DECRYPT, as the host moves they expand to, return Encrypt and Decrypt of their arguments. -/
def Obligations.EncryptAndDecryptPseudoCommands : Prop :=
  ∀ (s : State) (k x : List Word) (t0 t1 : Word), Runnable s → OutsideHash s →
    k.length = blockWords s → x.length = blockWords s →
    (s.script = encryptScript (blockWords s) k t0 t1 x → ∃ t, core.run s.script.length s = .next t ∧
      t.reads = s.reads ++ encrypt (blockWords s) (roundCount s) (keySchedule k) (tweakSchedule t0 t1) x) ∧
    (s.script = decryptScript (blockWords s) k t0 t1 x → ∃ t, core.run s.script.length s = .next t ∧
      t.reads = s.reads ++ decrypt (blockWords s) (roundCount s) (keySchedule k) (tweakSchedule t0 t1) x)

/-- R59, R86: UBI, as the host moves it expands to, returns the chaining value of its blocks under its tweaks: in its form
with UINIT from any G, and in its form with UINITZ from an all-zero G. -/
def Obligations.UbiPseudoCommand : Prop :=
  ∀ (s : State) (g : List Word) (bs : List (List Word × Word × Word)), Runnable s →
    OutsideHash s → g.length = blockWords s → (∀ b ∈ bs, b.1.length = blockWords s) →
    (s.script = ubiScript (blockWords s) g bs ∨
      (s.script = ubiZeroScript (blockWords s) bs ∧ g = List.replicate (blockWords s) 0)) →
    ∃ t, core.run s.script.length s = .next t ∧
      t.reads = s.reads ++ bs.foldl
        (fun c b => List.zipWith (· ^^^ ·)
          (encrypt (blockWords s) (roundCount s) (keySchedule c) (tweakSchedule b.2.1 b.2.2) b.1) b.1) g

/-- R58, R117: the pseudo-command HASH has an expansion exactly when no optional input is longer than a block; as the host
moves it expands to it runs from every configured, unfaulted state and every phase to PHASE = DONE, the digest in OBUF is
the function Hash of its arguments, and its reads return OLEN and the digest's words. For outputs of more than one block
both sides depend on the open OUTPOS (log 2). -/
def Obligations.HashPseudoCommandComputesHash : Prop :=
  (∀ (nw : Nat) (outBits : Word) (m : List Byte) (o : OptionalInputs) (b : Bool),
    hashScript nw outBits m o b = none ↔
      ∃ x ∈ [o.key, o.prs, o.pk, o.kdf, o.non], ∃ y, x = some y ∧ 8 * nw < y.length) ∧
  ∀ (s : State) (outBits : Word) (m : List Byte) (o : OptionalInputs) (b : Bool), Runnable s →
    outBits.toNat % 8 = 0 → ceilDiv outBits.toNat (64 * blockWords s) * blockBytes s ≤ obufMax →
    m.length < 2 ^ 64 → (b = true → m ≠ []) →
    hashScript (blockWords s) outBits m o b = some s.script →
    ∃ t, core.run s.script.length s = .next t ∧ t.fault = false ∧ t.phase = .done ∧
      t.olen.toNat = outBits.toNat / 8 ∧
      memReadBytes t.obuf 0 (outBits.toNat / 8) =
        hashFunction (blockWords s) (roundCount s) outBits m o b ∧
      t.reads = s.reads ++ t.olen :: blockOf (ceilDiv (outBits.toNat / 8) 8)
        (hashFunction (blockWords s) (roundCount s) outBits m o b)

/-! ## Byte views (spec/20_memory.md) -/

/-- R46: BytesOf is the string of the block's little-endian bytes and the inverse of BlockOf on NB-byte strings. -/
def Obligations.ByteViewsAreInverse : Prop :=
  (∀ (ws : List Word) (k : Nat), k < 8 * ws.length →
    (bytesOf ws)[k]? = some (wordByte (ws.getD (k / 8) 0) (k % 8))) ∧
  (∀ (nw : Nat) (ws : List Word), ws.length = nw → blockOf nw (bytesOf ws) = ws) ∧
  (∀ (nw : Nat) (bs : List Byte), bs.length = 8 * nw → bytesOf (blockOf nw bs) = bs)

/-- R44, R41: BlockOf pads with zero bytes on the right and reads little-endian. -/
def Obligations.ShortBlocksAreZeroPadded : Prop :=
  ∀ (nw : Nat) (bs : List Byte), bs.length ≤ 8 * nw →
    (blockOf nw bs).length = nw ∧
    ∀ j k, j < nw → k < 8 → wordByte ((blockOf nw bs).getD j 0) k = bs.getD (8 * j + k) 0

/-- R45, R101: the bytes of BLK at or beyond ILEN do not influence an input block, whatever they hold. -/
def Obligations.InputBytesBeyondLengthUnread : Prop :=
  ∀ (s : State) (b : Vector Word 16) (n : Nat), n ≤ 128 →
    (∀ k, k < n → (bytesOf b.toList)[k]? = (bytesOf s.blk.toList)[k]?) →
    inBlock { s with blk := b } n = inBlock s n

/-! ## Who writes and who reads what (spec/10_state.md) -/

/-- R11, R13, R25, R27 to R30: no command writes the host's operands and control registers. -/
def Obligations.NoCommandWritesHostRegisters : Prop :=
  ∀ (i : Instr) (s t : State), exec i s = .next t → HostSideKept s t

/-- R12, R14, R16 to R18, R20, R21, R26, R31: the commands that can write each engine-written register; under every other
command it keeps its value, and every byte of OBUF reads as before. -/
def Obligations.EngineRegistersHaveTheirWriters : Prop :=
  ∀ (i : Instr) (s t : State), exec i s = .next t →
    (i ≠ .setcfg → ConfigurationKept s t) ∧
    (i ∉ [.reset, .setcfg, .hinit] →
      t.houtlen = s.houtlen ∧
      (i ∉ [.cenc, .cdec, .uout] → t.res = s.res) ∧
      (i ≠ .hout → t.olen = s.olen ∧ (∀ k, memRead t.obuf k = memRead s.obuf k) ∧ t.olmShort = s.olmShort ∧
        t.olmTrunc = s.olmTrunc) ∧
      ((i ∈ [.nop, .cenc, .cdec, .uinit, .uinitz, .uout, .cfgser] ∨ ∃ ty p f l, i = .twenc ty p f l) →
        t.ks = s.ks ∧ t.ts = s.ts ∧ t.ckeyed = s.ckeyed) ∧
      ((i ∈ [.nop, .cinit, .cenc, .cdec, .uout, .cfgser] ∨ ∃ ty p f l, i = .twenc ty p f l) → t.cv = s.cv) ∧
      (i ∈ [.nop, .cinit, .cenc, .cdec, .uinit, .uinitz, .uupd, .uout, .cfgser] →
        t.twk0 = s.twk0 ∧ t.twk1 = s.twk1) ∧
      ((i ∈ [.nop, .cinit, .cenc, .cdec, .uinit, .uinitz, .uupd, .uout, .hkey, .hout] ∨
        ∃ ty p f l, i = .twenc ty p f l) → t.cb = s.cb) ∧
      (i ≠ .hmblk → (∀ b, i ≠ .hmfin b) → t.bpos = s.bpos ∧ t.firstpend = s.firstpend))

/-- R34: under a legal configuration no command but those that run Clear() writes a word of RES or CV from index NW on, or of
KS beyond index NW. -/
def Obligations.WordsBeyondBlockAreKept : Prop :=
  ∀ (i : Instr) (s t : State), ConfigSound s → exec i s = .next t → i ∉ [.reset, .setcfg, .hinit] →
    HighWordsKept s t

/-- R34: under a legal configuration no command reads a word of KEY, BLK, RES or CV from index NW on, or of KS beyond index
NW: two states that differ at most there are led by the same command to states that differ at most there. -/
def Obligations.WordsBeyondBlockAreUnread : Prop :=
  ∀ (i : Instr) (s s' t : State), ConfigSound s → SameUsed (blockWords s) s s' → exec i s = .next t →
    ∃ t', exec i s' = .next t' ∧ SameUsed (blockWords s) t t'

/-- R31, R157: OUTLEN and TREE are read by HINIT and CFGSER only; a host write of either during a hash changes nothing that
any other command does. -/
def Obligations.OutlenAndTreeAreLatched : Prop :=
  ∀ (i : Instr) (s t : State) (v : Word) (w : BitVec 24), i ≠ .hinit → i ≠ .cfgser → exec i s = .next t →
    exec i { s with outlen := v, tree := w } = .next { t with outlen := v, tree := w }

/-- R157: while a hash is in progress no low-level command changes anything but FAULT and ERR. -/
def Obligations.HashOwnsCipherAndChaining : Prop :=
  ∀ (i : Instr) (s : State), s.fault = false → s.cfgv = true → s.phase ≠ .idle → s.phase ≠ .done →
    i ∈ [.cinit, .cenc, .cdec, .uinit, .uinitz, .uupd] → exec i s = .next { s with fault := true, err := 5 }

/-! ## The input of one optional pass (spec/30_encoding.md R57) -/

/-- R57, R55: HOPT has no expansion for an input longer than a block; for any other input and each of its five commands its
moves end in that command, executed on the state with the input, extended with zero bytes, in BLK and its length in ILEN. -/
def Obligations.HoptIssuesItsCommandOnTheInput : Prop :=
  (∀ (nb : Nat) (c : OptionalCommand) (x : List Byte), hoptScript nb c x = none ↔ nb < x.length) ∧
  ∀ (s : State) (c : OptionalCommand) (i : Instr) (x : List Byte),
    (c, i) ∈ ([(.hkey, .hkey), (.hprs, .hprs), (.hpk, .hpk), (.hkdf, .hkdf), (.hnon, .hnon)] :
      List (OptionalCommand × Instr)) →
    LegalBlockWords s.cfgnw → hoptScript (blockBytes s) c x = some s.script →
    ∃ u : State, u.blk.toList = blockOf 16 x ∧ u.ilen.toNat = x.length ∧ inBlock u x.length = blockOf (blockWords s) x ∧
      u.script = [] ∧ { u with blk := s.blk, ilen := s.ilen, script := s.script } = s ∧
      core.run s.script.length s = exec i u
end

