-- ==== Sys2Proof/Laws/Blocks.lean ====
section
/-! SUPPORT. Lengths of blocks, what replacing the used words of a bank leaves, and the sizes of byte strings. -/

namespace Sys2Proof.Machine

@[simp] theorem length_keySchedule (k : List Word) : (keySchedule k).length = k.length + 1 := by simp [keySchedule]

@[simp] theorem length_subkey (nw : Nat) (ks : List Word) (ts : Vector Word 3) (n : Nat) :
    (subkey nw ks ts n).length = nw := by simp [subkey]

@[simp] theorem length_permute (p : List Nat) (ws : List Word) : (permute p ws).length = p.length := by simp [permute]

@[simp] theorem length_addSubkey (ws sk : List Word) : (addSubkey ws sk).length = min ws.length sk.length := by
  simp [addSubkey]

@[simp] theorem length_subSubkey (ws sk : List Word) : (subSubkey ws sk).length = min ws.length sk.length := by
  simp [subSubkey]

@[simp] theorem length_feedForward (c m : List Word) : (feedForward c m).length = min c.length m.length := by
  simp [feedForward]

theorem length_mixPairs : ∀ (rs : List Nat) (ws : List Word), ws.length = 2 * rs.length →
    (mixPairs rs ws).length = ws.length
  | [], ws, h => by
    rw [List.length_nil, Nat.mul_zero, List.length_eq_zero_iff] at h
    subst h
    rfl
  | r :: rs, [], h => by simp at h
  | r :: rs, [x], h => by
    simp only [List.length_cons, List.length_nil] at h
    omega
  | r :: rs, x0 :: x1 :: xs, h => by
    have := length_mixPairs rs xs (by simp only [List.length_cons] at h; omega)
    simp [mixPairs, this]

theorem length_unmixPairs : ∀ (rs : List Nat) (ws : List Word), ws.length = 2 * rs.length →
    (unmixPairs rs ws).length = ws.length
  | [], ws, h => by
    rw [List.length_nil, Nat.mul_zero, List.length_eq_zero_iff] at h
    subst h
    rfl
  | r :: rs, [], h => by simp at h
  | r :: rs, [x], h => by
    simp only [List.length_cons, List.length_nil] at h
    omega
  | r :: rs, x0 :: x1 :: xs, h => by
    have := length_unmixPairs rs xs (by simp only [List.length_cons] at h; omega)
    simp [unmixPairs, this]

/-- A legal word count: 4, 8 or 16 (R2). -/
def LegalCount (nw : Nat) : Prop := nw = 4 ∨ nw = 8 ∨ nw = 16

theorem length_perm {nw : Nat} (h : LegalCount nw) : (perm nw).length = nw := by
  rcases h with rfl | rfl | rfl <;> rfl

theorem length_permInv {nw : Nat} (h : LegalCount nw) : (permInv nw).length = nw := by
  rcases h with rfl | rfl | rfl <;> rfl

theorem length_rotRow {nw : Nat} (h : LegalCount nw) (d : Nat) : 2 * (rotRow nw d).length = nw := by
  have hd : d % 8 < 8 := Nat.mod_lt _ (by omega)
  unfold rotRow
  generalize d % 8 = e at hd
  rcases h with rfl | rfl | rfl <;> interval_cases e <;> rfl

theorem length_encRound {nw : Nat} (h : LegalCount nw) (ks : List Word) (ts : Vector Word 3) (d : Nat)
    (v : List Word) : (encRound nw ks ts d v).length = nw := by
  simp [encRound, length_perm h]

/-- A block stays a block through any number of rounds. -/
theorem length_encRounds {nw : Nat} (h : LegalCount nw) (ks : List Word) (ts : Vector Word 3) {p : List Word}
    (hp : p.length = nw) : ∀ n, (encRounds nw ks ts p n).length = nw
  | 0 => hp
  | _ + 1 => length_encRound h ks ts _ _

/-- The ciphertext of a block is a block (R67). -/
theorem length_encrypt {nw : Nat} (h : LegalCount nw) (nr : Nat) (ks : List Word) (ts : Vector Word 3)
    {p : List Word} (hp : p.length = nw) : (encrypt nw nr ks ts p).length = nw := by
  simp [encrypt, length_encRounds h ks ts hp]

theorem length_decRound {nw : Nat} (h : LegalCount nw) (ks : List Word) (ts : Vector Word 3) (d : Nat)
    (v : List Word) : (decRound nw ks ts d v).length = nw := by
  have hl : (unmixPairs (rotRow nw d) (permute (permInv nw) v)).length = nw := by
    rw [length_unmixPairs _ _ (by rw [length_permute, length_permInv h, length_rotRow h]), length_permute,
      length_permInv h]
  unfold decRound
  split
  · rw [length_subSubkey, length_subkey, hl, Nat.min_self]
  · exact hl

theorem length_decRounds {nw : Nat} (h : LegalCount nw) (ks : List Word) (ts : Vector Word 3) :
    ∀ (n : Nat) {v : List Word}, v.length = nw → (decRounds nw ks ts n v).length = nw
  | 0, _, hv => hv
  | n + 1, _, _ => length_decRounds h ks ts n (length_decRound h ks ts n _)

/-- The plaintext of a block is a block (R68). -/
theorem length_decrypt {nw : Nat} (h : LegalCount nw) (nr : Nat) (ks : List Word) (ts : Vector Word 3)
    {c : List Word} (hc : c.length = nw) : (decrypt nw nr ks ts c).length = nw :=
  length_decRounds h ks ts nr (by simp [hc])

@[simp] theorem length_wordBytes (w : Word) : (wordBytes w).length = 8 := rfl

@[simp] theorem length_bytesOf : ∀ ws : List Word, (bytesOf ws).length = 8 * ws.length
  | [] => rfl
  | w :: ws => by
    have := length_bytesOf ws
    simp only [bytesOf, List.flatMap_cons, List.length_append, length_wordBytes, List.length_cons] at this ⊢
    omega

@[simp] theorem length_wordsOf : ∀ (n : Nat) (bs : List Byte), (wordsOf n bs).length = n
  | 0, _ => rfl
  | n + 1, bs => by simp [wordsOf, length_wordsOf n]

@[simp] theorem length_blockOf (nw : Nat) (s : List Byte) : (blockOf nw s).length = nw := by simp [blockOf]

@[simp] theorem length_counterBlock {nw : Nat} (h : 0 < nw) (i : Nat) : (counterBlock nw i).length = nw := by
  simp only [counterBlock, List.length_cons, List.length_replicate]
  omega

/-- The words of a bank after its first words are replaced. -/
theorem toList_writeLow {n : Nat} (bank : Vector Word n) (ws : List Word) (h : ws.length ≤ n) :
    (writeLow bank ws).toList = ws ++ bank.toList.drop ws.length := by
  simp only [writeLow, Vector.toList_mk]
  rw [List.take_of_length_le]
  simp only [List.length_append, List.length_drop, Vector.length_toList]
  omega

/-- The replaced words read back. -/
theorem take_writeLow {n : Nat} (bank : Vector Word n) (ws : List Word) (h : ws.length ≤ n) :
    (writeLow bank ws).toList.take ws.length = ws := by
  rw [toList_writeLow bank ws h, List.take_left]

/-- A replaced word is the new one. -/
theorem getElem_writeLow_lt {n : Nat} (bank : Vector Word n) (ws : List Word) (h : ws.length ≤ n) {i : Nat}
    (hi : i < n) (hw : i < ws.length) : (writeLow bank ws)[i] = ws[i] := by
  rw [← Vector.getElem_toList (by simpa using hi)]
  simp only [toList_writeLow bank ws h]
  exact List.getElem_append_left hw

/-- A word beyond the replaced ones keeps its value (R34). -/
theorem getElem_writeLow_ge {n : Nat} (bank : Vector Word n) (ws : List Word) (h : ws.length ≤ n) {i : Nat}
    (hi : i < n) (hw : ws.length ≤ i) : (writeLow bank ws)[i] = bank[i] := by
  rw [← Vector.getElem_toList (by simpa using hi), ← Vector.getElem_toList (by simpa using hi)]
  simp only [toList_writeLow bank ws h]
  rw [List.getElem_append_right hw, List.getElem_drop]
  congr 1
  omega

end Sys2Proof.Machine
end

