-- ==== Sys2Proof/Laws/State.lean ====
section
/-! SUPPORT. What each named update of the state leaves in each field: one lemma per field per update. -/

namespace Sys2Proof.Machine

section
variable (k : FaultKind) (s : State)
@[simp] theorem raise_key : (raise k s).key = s.key := rfl
@[simp] theorem raise_twk0 : (raise k s).twk0 = s.twk0 := rfl
@[simp] theorem raise_twk1 : (raise k s).twk1 = s.twk1 := rfl
@[simp] theorem raise_blk : (raise k s).blk = s.blk := rfl
@[simp] theorem raise_res : (raise k s).res = s.res := rfl
@[simp] theorem raise_ks : (raise k s).ks = s.ks := rfl
@[simp] theorem raise_ts : (raise k s).ts = s.ts := rfl
@[simp] theorem raise_cv : (raise k s).cv = s.cv := rfl
@[simp] theorem raise_cb : (raise k s).cb = s.cb := rfl
@[simp] theorem raise_obuf : (raise k s).obuf = s.obuf := rfl
@[simp] theorem raise_olen : (raise k s).olen = s.olen := rfl
@[simp] theorem raise_bsize : (raise k s).bsize = s.bsize := rfl
@[simp] theorem raise_rounds : (raise k s).rounds = s.rounds := rfl
@[simp] theorem raise_pos : (raise k s).pos = s.pos := rfl
@[simp] theorem raise_outlen : (raise k s).outlen = s.outlen := rfl
@[simp] theorem raise_tree : (raise k s).tree = s.tree := rfl
@[simp] theorem raise_ilen : (raise k s).ilen = s.ilen := rfl
@[simp] theorem raise_cfgv : (raise k s).cfgv = s.cfgv := rfl
@[simp] theorem raise_ckeyed : (raise k s).ckeyed = s.ckeyed := rfl
@[simp] theorem raise_fault : (raise k s).fault = true := rfl
@[simp] theorem raise_olmShort : (raise k s).olmShort = s.olmShort := rfl
@[simp] theorem raise_olmTrunc : (raise k s).olmTrunc = s.olmTrunc := rfl
@[simp] theorem raise_firstpend : (raise k s).firstpend = s.firstpend := rfl
@[simp] theorem raise_cfgdone : (raise k s).cfgdone = s.cfgdone := rfl
@[simp] theorem raise_phase : (raise k s).phase = s.phase := rfl
@[simp] theorem raise_lasttype : (raise k s).lasttype = s.lasttype := rfl
@[simp] theorem raise_err : (raise k s).err = faultCode k := rfl
@[simp] theorem raise_cfgnw : (raise k s).cfgnw = s.cfgnw := rfl
@[simp] theorem raise_cfgnr : (raise k s).cfgnr = s.cfgnr := rfl
@[simp] theorem raise_bpos : (raise k s).bpos = s.bpos := rfl
@[simp] theorem raise_houtlen : (raise k s).houtlen = s.houtlen := rfl
@[simp] theorem raise_script : (raise k s).script = s.script := rfl
@[simp] theorem raise_reads : (raise k s).reads = s.reads := rfl
end

section
variable (s : State)
@[simp] theorem faultReturn_key : (faultReturn s).key = s.key := rfl
@[simp] theorem faultReturn_twk0 : (faultReturn s).twk0 = s.twk0 := rfl
@[simp] theorem faultReturn_twk1 : (faultReturn s).twk1 = s.twk1 := rfl
@[simp] theorem faultReturn_blk : (faultReturn s).blk = s.blk := rfl
@[simp] theorem faultReturn_res : (faultReturn s).res = s.res := rfl
@[simp] theorem faultReturn_ks : (faultReturn s).ks = s.ks := rfl
@[simp] theorem faultReturn_ts : (faultReturn s).ts = s.ts := rfl
@[simp] theorem faultReturn_cv : (faultReturn s).cv = s.cv := rfl
@[simp] theorem faultReturn_cb : (faultReturn s).cb = s.cb := rfl
@[simp] theorem faultReturn_obuf : (faultReturn s).obuf = s.obuf := rfl
@[simp] theorem faultReturn_olen : (faultReturn s).olen = s.olen := rfl
@[simp] theorem faultReturn_bsize : (faultReturn s).bsize = s.bsize := rfl
@[simp] theorem faultReturn_rounds : (faultReturn s).rounds = s.rounds := rfl
@[simp] theorem faultReturn_pos : (faultReturn s).pos = s.pos := rfl
@[simp] theorem faultReturn_outlen : (faultReturn s).outlen = s.outlen := rfl
@[simp] theorem faultReturn_tree : (faultReturn s).tree = s.tree := rfl
@[simp] theorem faultReturn_ilen : (faultReturn s).ilen = s.ilen := rfl
@[simp] theorem faultReturn_cfgv : (faultReturn s).cfgv = s.cfgv := rfl
@[simp] theorem faultReturn_ckeyed : (faultReturn s).ckeyed = s.ckeyed := rfl
@[simp] theorem faultReturn_fault : (faultReturn s).fault = false := rfl
@[simp] theorem faultReturn_olmShort : (faultReturn s).olmShort = s.olmShort := rfl
@[simp] theorem faultReturn_olmTrunc : (faultReturn s).olmTrunc = s.olmTrunc := rfl
@[simp] theorem faultReturn_firstpend : (faultReturn s).firstpend = s.firstpend := rfl
@[simp] theorem faultReturn_cfgdone : (faultReturn s).cfgdone = s.cfgdone := rfl
@[simp] theorem faultReturn_phase : (faultReturn s).phase = s.phase := rfl
@[simp] theorem faultReturn_lasttype : (faultReturn s).lasttype = s.lasttype := rfl
@[simp] theorem faultReturn_err : (faultReturn s).err = 0 := rfl
@[simp] theorem faultReturn_cfgnw : (faultReturn s).cfgnw = s.cfgnw := rfl
@[simp] theorem faultReturn_cfgnr : (faultReturn s).cfgnr = s.cfgnr := rfl
@[simp] theorem faultReturn_bpos : (faultReturn s).bpos = s.bpos := rfl
@[simp] theorem faultReturn_houtlen : (faultReturn s).houtlen = s.houtlen := rfl
@[simp] theorem faultReturn_script : (faultReturn s).script = s.script := rfl
@[simp] theorem faultReturn_reads : (faultReturn s).reads = s.reads := rfl
end

section
variable (s : State)
@[simp] theorem clear_key : (clear s).key = s.key := rfl
@[simp] theorem clear_twk0 : (clear s).twk0 = 0 := rfl
@[simp] theorem clear_twk1 : (clear s).twk1 = 0 := rfl
@[simp] theorem clear_blk : (clear s).blk = s.blk := rfl
@[simp] theorem clear_res : (clear s).res = Vector.replicate 16 0 := rfl
@[simp] theorem clear_ks : (clear s).ks = Vector.replicate 17 0 := rfl
@[simp] theorem clear_ts : (clear s).ts = Vector.replicate 3 0 := rfl
@[simp] theorem clear_cv : (clear s).cv = Vector.replicate 16 0 := rfl
@[simp] theorem clear_cb : (clear s).cb = Vector.replicate 32 0 := rfl
@[simp] theorem clear_obuf : (clear s).obuf = [] := rfl
@[simp] theorem clear_olen : (clear s).olen = 0 := rfl
@[simp] theorem clear_bsize : (clear s).bsize = s.bsize := rfl
@[simp] theorem clear_rounds : (clear s).rounds = s.rounds := rfl
@[simp] theorem clear_pos : (clear s).pos = s.pos := rfl
@[simp] theorem clear_outlen : (clear s).outlen = s.outlen := rfl
@[simp] theorem clear_tree : (clear s).tree = s.tree := rfl
@[simp] theorem clear_ilen : (clear s).ilen = s.ilen := rfl
@[simp] theorem clear_cfgv : (clear s).cfgv = s.cfgv := rfl
@[simp] theorem clear_ckeyed : (clear s).ckeyed = false := rfl
@[simp] theorem clear_fault : (clear s).fault = s.fault := rfl
@[simp] theorem clear_olmShort : (clear s).olmShort = false := rfl
@[simp] theorem clear_olmTrunc : (clear s).olmTrunc = false := rfl
@[simp] theorem clear_firstpend : (clear s).firstpend = false := rfl
@[simp] theorem clear_cfgdone : (clear s).cfgdone = false := rfl
@[simp] theorem clear_phase : (clear s).phase = .idle := rfl
@[simp] theorem clear_lasttype : (clear s).lasttype = 0 := rfl
@[simp] theorem clear_err : (clear s).err = s.err := rfl
@[simp] theorem clear_cfgnw : (clear s).cfgnw = s.cfgnw := rfl
@[simp] theorem clear_cfgnr : (clear s).cfgnr = s.cfgnr := rfl
@[simp] theorem clear_bpos : (clear s).bpos = 0 := rfl
@[simp] theorem clear_houtlen : (clear s).houtlen = 0 := rfl
@[simp] theorem clear_script : (clear s).script = s.script := rfl
@[simp] theorem clear_reads : (clear s).reads = s.reads := rfl
end

section
variable (t : Word × Word) (s : State)
@[simp] theorem setTweak_key : (setTweak t s).key = s.key := rfl
@[simp] theorem setTweak_twk0 : (setTweak t s).twk0 = t.1 := rfl
@[simp] theorem setTweak_twk1 : (setTweak t s).twk1 = t.2 := rfl
@[simp] theorem setTweak_blk : (setTweak t s).blk = s.blk := rfl
@[simp] theorem setTweak_res : (setTweak t s).res = s.res := rfl
@[simp] theorem setTweak_ks : (setTweak t s).ks = s.ks := rfl
@[simp] theorem setTweak_ts : (setTweak t s).ts = s.ts := rfl
@[simp] theorem setTweak_cv : (setTweak t s).cv = s.cv := rfl
@[simp] theorem setTweak_cb : (setTweak t s).cb = s.cb := rfl
@[simp] theorem setTweak_obuf : (setTweak t s).obuf = s.obuf := rfl
@[simp] theorem setTweak_olen : (setTweak t s).olen = s.olen := rfl
@[simp] theorem setTweak_bsize : (setTweak t s).bsize = s.bsize := rfl
@[simp] theorem setTweak_rounds : (setTweak t s).rounds = s.rounds := rfl
@[simp] theorem setTweak_pos : (setTweak t s).pos = s.pos := rfl
@[simp] theorem setTweak_outlen : (setTweak t s).outlen = s.outlen := rfl
@[simp] theorem setTweak_tree : (setTweak t s).tree = s.tree := rfl
@[simp] theorem setTweak_ilen : (setTweak t s).ilen = s.ilen := rfl
@[simp] theorem setTweak_cfgv : (setTweak t s).cfgv = s.cfgv := rfl
@[simp] theorem setTweak_ckeyed : (setTweak t s).ckeyed = s.ckeyed := rfl
@[simp] theorem setTweak_fault : (setTweak t s).fault = s.fault := rfl
@[simp] theorem setTweak_olmShort : (setTweak t s).olmShort = s.olmShort := rfl
@[simp] theorem setTweak_olmTrunc : (setTweak t s).olmTrunc = s.olmTrunc := rfl
@[simp] theorem setTweak_firstpend : (setTweak t s).firstpend = s.firstpend := rfl
@[simp] theorem setTweak_cfgdone : (setTweak t s).cfgdone = s.cfgdone := rfl
@[simp] theorem setTweak_phase : (setTweak t s).phase = s.phase := rfl
@[simp] theorem setTweak_lasttype : (setTweak t s).lasttype = s.lasttype := rfl
@[simp] theorem setTweak_err : (setTweak t s).err = s.err := rfl
@[simp] theorem setTweak_cfgnw : (setTweak t s).cfgnw = s.cfgnw := rfl
@[simp] theorem setTweak_cfgnr : (setTweak t s).cfgnr = s.cfgnr := rfl
@[simp] theorem setTweak_bpos : (setTweak t s).bpos = s.bpos := rfl
@[simp] theorem setTweak_houtlen : (setTweak t s).houtlen = s.houtlen := rfl
@[simp] theorem setTweak_script : (setTweak t s).script = s.script := rfl
@[simp] theorem setTweak_reads : (setTweak t s).reads = s.reads := rfl
end

section
variable (k : List Word) (t : Vector Word 3) (s : State)
@[simp] theorem setSchedule_key : (setSchedule k t s).key = s.key := rfl
@[simp] theorem setSchedule_twk0 : (setSchedule k t s).twk0 = s.twk0 := rfl
@[simp] theorem setSchedule_twk1 : (setSchedule k t s).twk1 = s.twk1 := rfl
@[simp] theorem setSchedule_blk : (setSchedule k t s).blk = s.blk := rfl
@[simp] theorem setSchedule_res : (setSchedule k t s).res = s.res := rfl
@[simp] theorem setSchedule_ks : (setSchedule k t s).ks = writeLow s.ks k := rfl
@[simp] theorem setSchedule_ts : (setSchedule k t s).ts = t := rfl
@[simp] theorem setSchedule_cv : (setSchedule k t s).cv = s.cv := rfl
@[simp] theorem setSchedule_cb : (setSchedule k t s).cb = s.cb := rfl
@[simp] theorem setSchedule_obuf : (setSchedule k t s).obuf = s.obuf := rfl
@[simp] theorem setSchedule_olen : (setSchedule k t s).olen = s.olen := rfl
@[simp] theorem setSchedule_bsize : (setSchedule k t s).bsize = s.bsize := rfl
@[simp] theorem setSchedule_rounds : (setSchedule k t s).rounds = s.rounds := rfl
@[simp] theorem setSchedule_pos : (setSchedule k t s).pos = s.pos := rfl
@[simp] theorem setSchedule_outlen : (setSchedule k t s).outlen = s.outlen := rfl
@[simp] theorem setSchedule_tree : (setSchedule k t s).tree = s.tree := rfl
@[simp] theorem setSchedule_ilen : (setSchedule k t s).ilen = s.ilen := rfl
@[simp] theorem setSchedule_cfgv : (setSchedule k t s).cfgv = s.cfgv := rfl
@[simp] theorem setSchedule_ckeyed : (setSchedule k t s).ckeyed = true := rfl
@[simp] theorem setSchedule_fault : (setSchedule k t s).fault = s.fault := rfl
@[simp] theorem setSchedule_olmShort : (setSchedule k t s).olmShort = s.olmShort := rfl
@[simp] theorem setSchedule_olmTrunc : (setSchedule k t s).olmTrunc = s.olmTrunc := rfl
@[simp] theorem setSchedule_firstpend : (setSchedule k t s).firstpend = s.firstpend := rfl
@[simp] theorem setSchedule_cfgdone : (setSchedule k t s).cfgdone = s.cfgdone := rfl
@[simp] theorem setSchedule_phase : (setSchedule k t s).phase = s.phase := rfl
@[simp] theorem setSchedule_lasttype : (setSchedule k t s).lasttype = s.lasttype := rfl
@[simp] theorem setSchedule_err : (setSchedule k t s).err = s.err := rfl
@[simp] theorem setSchedule_cfgnw : (setSchedule k t s).cfgnw = s.cfgnw := rfl
@[simp] theorem setSchedule_cfgnr : (setSchedule k t s).cfgnr = s.cfgnr := rfl
@[simp] theorem setSchedule_bpos : (setSchedule k t s).bpos = s.bpos := rfl
@[simp] theorem setSchedule_houtlen : (setSchedule k t s).houtlen = s.houtlen := rfl
@[simp] theorem setSchedule_script : (setSchedule k t s).script = s.script := rfl
@[simp] theorem setSchedule_reads : (setSchedule k t s).reads = s.reads := rfl
end

section
variable (ws : List Word) (s : State)
@[simp] theorem setResult_key : (setResult ws s).key = s.key := rfl
@[simp] theorem setResult_twk0 : (setResult ws s).twk0 = s.twk0 := rfl
@[simp] theorem setResult_twk1 : (setResult ws s).twk1 = s.twk1 := rfl
@[simp] theorem setResult_blk : (setResult ws s).blk = s.blk := rfl
@[simp] theorem setResult_res : (setResult ws s).res = writeLow s.res ws := rfl
@[simp] theorem setResult_ks : (setResult ws s).ks = s.ks := rfl
@[simp] theorem setResult_ts : (setResult ws s).ts = s.ts := rfl
@[simp] theorem setResult_cv : (setResult ws s).cv = s.cv := rfl
@[simp] theorem setResult_cb : (setResult ws s).cb = s.cb := rfl
@[simp] theorem setResult_obuf : (setResult ws s).obuf = s.obuf := rfl
@[simp] theorem setResult_olen : (setResult ws s).olen = s.olen := rfl
@[simp] theorem setResult_bsize : (setResult ws s).bsize = s.bsize := rfl
@[simp] theorem setResult_rounds : (setResult ws s).rounds = s.rounds := rfl
@[simp] theorem setResult_pos : (setResult ws s).pos = s.pos := rfl
@[simp] theorem setResult_outlen : (setResult ws s).outlen = s.outlen := rfl
@[simp] theorem setResult_tree : (setResult ws s).tree = s.tree := rfl
@[simp] theorem setResult_ilen : (setResult ws s).ilen = s.ilen := rfl
@[simp] theorem setResult_cfgv : (setResult ws s).cfgv = s.cfgv := rfl
@[simp] theorem setResult_ckeyed : (setResult ws s).ckeyed = s.ckeyed := rfl
@[simp] theorem setResult_fault : (setResult ws s).fault = s.fault := rfl
@[simp] theorem setResult_olmShort : (setResult ws s).olmShort = s.olmShort := rfl
@[simp] theorem setResult_olmTrunc : (setResult ws s).olmTrunc = s.olmTrunc := rfl
@[simp] theorem setResult_firstpend : (setResult ws s).firstpend = s.firstpend := rfl
@[simp] theorem setResult_cfgdone : (setResult ws s).cfgdone = s.cfgdone := rfl
@[simp] theorem setResult_phase : (setResult ws s).phase = s.phase := rfl
@[simp] theorem setResult_lasttype : (setResult ws s).lasttype = s.lasttype := rfl
@[simp] theorem setResult_err : (setResult ws s).err = s.err := rfl
@[simp] theorem setResult_cfgnw : (setResult ws s).cfgnw = s.cfgnw := rfl
@[simp] theorem setResult_cfgnr : (setResult ws s).cfgnr = s.cfgnr := rfl
@[simp] theorem setResult_bpos : (setResult ws s).bpos = s.bpos := rfl
@[simp] theorem setResult_houtlen : (setResult ws s).houtlen = s.houtlen := rfl
@[simp] theorem setResult_script : (setResult ws s).script = s.script := rfl
@[simp] theorem setResult_reads : (setResult ws s).reads = s.reads := rfl
end

section
variable (ws : List Word) (s : State)
@[simp] theorem setChaining_key : (setChaining ws s).key = s.key := rfl
@[simp] theorem setChaining_twk0 : (setChaining ws s).twk0 = s.twk0 := rfl
@[simp] theorem setChaining_twk1 : (setChaining ws s).twk1 = s.twk1 := rfl
@[simp] theorem setChaining_blk : (setChaining ws s).blk = s.blk := rfl
@[simp] theorem setChaining_res : (setChaining ws s).res = s.res := rfl
@[simp] theorem setChaining_ks : (setChaining ws s).ks = s.ks := rfl
@[simp] theorem setChaining_ts : (setChaining ws s).ts = s.ts := rfl
@[simp] theorem setChaining_cv : (setChaining ws s).cv = writeLow s.cv ws := rfl
@[simp] theorem setChaining_cb : (setChaining ws s).cb = s.cb := rfl
@[simp] theorem setChaining_obuf : (setChaining ws s).obuf = s.obuf := rfl
@[simp] theorem setChaining_olen : (setChaining ws s).olen = s.olen := rfl
@[simp] theorem setChaining_bsize : (setChaining ws s).bsize = s.bsize := rfl
@[simp] theorem setChaining_rounds : (setChaining ws s).rounds = s.rounds := rfl
@[simp] theorem setChaining_pos : (setChaining ws s).pos = s.pos := rfl
@[simp] theorem setChaining_outlen : (setChaining ws s).outlen = s.outlen := rfl
@[simp] theorem setChaining_tree : (setChaining ws s).tree = s.tree := rfl
@[simp] theorem setChaining_ilen : (setChaining ws s).ilen = s.ilen := rfl
@[simp] theorem setChaining_cfgv : (setChaining ws s).cfgv = s.cfgv := rfl
@[simp] theorem setChaining_ckeyed : (setChaining ws s).ckeyed = s.ckeyed := rfl
@[simp] theorem setChaining_fault : (setChaining ws s).fault = s.fault := rfl
@[simp] theorem setChaining_olmShort : (setChaining ws s).olmShort = s.olmShort := rfl
@[simp] theorem setChaining_olmTrunc : (setChaining ws s).olmTrunc = s.olmTrunc := rfl
@[simp] theorem setChaining_firstpend : (setChaining ws s).firstpend = s.firstpend := rfl
@[simp] theorem setChaining_cfgdone : (setChaining ws s).cfgdone = s.cfgdone := rfl
@[simp] theorem setChaining_phase : (setChaining ws s).phase = s.phase := rfl
@[simp] theorem setChaining_lasttype : (setChaining ws s).lasttype = s.lasttype := rfl
@[simp] theorem setChaining_err : (setChaining ws s).err = s.err := rfl
@[simp] theorem setChaining_cfgnw : (setChaining ws s).cfgnw = s.cfgnw := rfl
@[simp] theorem setChaining_cfgnr : (setChaining ws s).cfgnr = s.cfgnr := rfl
@[simp] theorem setChaining_bpos : (setChaining ws s).bpos = s.bpos := rfl
@[simp] theorem setChaining_houtlen : (setChaining ws s).houtlen = s.houtlen := rfl
@[simp] theorem setChaining_script : (setChaining ws s).script = s.script := rfl
@[simp] theorem setChaining_reads : (setChaining ws s).reads = s.reads := rfl
end

section
variable (v : Vector Byte 32) (s : State)
@[simp] theorem setConfigBlock_key : (setConfigBlock v s).key = s.key := rfl
@[simp] theorem setConfigBlock_twk0 : (setConfigBlock v s).twk0 = s.twk0 := rfl
@[simp] theorem setConfigBlock_twk1 : (setConfigBlock v s).twk1 = s.twk1 := rfl
@[simp] theorem setConfigBlock_blk : (setConfigBlock v s).blk = s.blk := rfl
@[simp] theorem setConfigBlock_res : (setConfigBlock v s).res = s.res := rfl
@[simp] theorem setConfigBlock_ks : (setConfigBlock v s).ks = s.ks := rfl
@[simp] theorem setConfigBlock_ts : (setConfigBlock v s).ts = s.ts := rfl
@[simp] theorem setConfigBlock_cv : (setConfigBlock v s).cv = s.cv := rfl
@[simp] theorem setConfigBlock_cb : (setConfigBlock v s).cb = v := rfl
@[simp] theorem setConfigBlock_obuf : (setConfigBlock v s).obuf = s.obuf := rfl
@[simp] theorem setConfigBlock_olen : (setConfigBlock v s).olen = s.olen := rfl
@[simp] theorem setConfigBlock_bsize : (setConfigBlock v s).bsize = s.bsize := rfl
@[simp] theorem setConfigBlock_rounds : (setConfigBlock v s).rounds = s.rounds := rfl
@[simp] theorem setConfigBlock_pos : (setConfigBlock v s).pos = s.pos := rfl
@[simp] theorem setConfigBlock_outlen : (setConfigBlock v s).outlen = s.outlen := rfl
@[simp] theorem setConfigBlock_tree : (setConfigBlock v s).tree = s.tree := rfl
@[simp] theorem setConfigBlock_ilen : (setConfigBlock v s).ilen = s.ilen := rfl
@[simp] theorem setConfigBlock_cfgv : (setConfigBlock v s).cfgv = s.cfgv := rfl
@[simp] theorem setConfigBlock_ckeyed : (setConfigBlock v s).ckeyed = s.ckeyed := rfl
@[simp] theorem setConfigBlock_fault : (setConfigBlock v s).fault = s.fault := rfl
@[simp] theorem setConfigBlock_olmShort : (setConfigBlock v s).olmShort = s.olmShort := rfl
@[simp] theorem setConfigBlock_olmTrunc : (setConfigBlock v s).olmTrunc = s.olmTrunc := rfl
@[simp] theorem setConfigBlock_firstpend : (setConfigBlock v s).firstpend = s.firstpend := rfl
@[simp] theorem setConfigBlock_cfgdone : (setConfigBlock v s).cfgdone = s.cfgdone := rfl
@[simp] theorem setConfigBlock_phase : (setConfigBlock v s).phase = s.phase := rfl
@[simp] theorem setConfigBlock_lasttype : (setConfigBlock v s).lasttype = s.lasttype := rfl
@[simp] theorem setConfigBlock_err : (setConfigBlock v s).err = s.err := rfl
@[simp] theorem setConfigBlock_cfgnw : (setConfigBlock v s).cfgnw = s.cfgnw := rfl
@[simp] theorem setConfigBlock_cfgnr : (setConfigBlock v s).cfgnr = s.cfgnr := rfl
@[simp] theorem setConfigBlock_bpos : (setConfigBlock v s).bpos = s.bpos := rfl
@[simp] theorem setConfigBlock_houtlen : (setConfigBlock v s).houtlen = s.houtlen := rfl
@[simp] theorem setConfigBlock_script : (setConfigBlock v s).script = s.script := rfl
@[simp] theorem setConfigBlock_reads : (setConfigBlock v s).reads = s.reads := rfl
end

section
variable (p : Phase) (s : State)
@[simp] theorem setPhase_key : (setPhase p s).key = s.key := rfl
@[simp] theorem setPhase_twk0 : (setPhase p s).twk0 = s.twk0 := rfl
@[simp] theorem setPhase_twk1 : (setPhase p s).twk1 = s.twk1 := rfl
@[simp] theorem setPhase_blk : (setPhase p s).blk = s.blk := rfl
@[simp] theorem setPhase_res : (setPhase p s).res = s.res := rfl
@[simp] theorem setPhase_ks : (setPhase p s).ks = s.ks := rfl
@[simp] theorem setPhase_ts : (setPhase p s).ts = s.ts := rfl
@[simp] theorem setPhase_cv : (setPhase p s).cv = s.cv := rfl
@[simp] theorem setPhase_cb : (setPhase p s).cb = s.cb := rfl
@[simp] theorem setPhase_obuf : (setPhase p s).obuf = s.obuf := rfl
@[simp] theorem setPhase_olen : (setPhase p s).olen = s.olen := rfl
@[simp] theorem setPhase_bsize : (setPhase p s).bsize = s.bsize := rfl
@[simp] theorem setPhase_rounds : (setPhase p s).rounds = s.rounds := rfl
@[simp] theorem setPhase_pos : (setPhase p s).pos = s.pos := rfl
@[simp] theorem setPhase_outlen : (setPhase p s).outlen = s.outlen := rfl
@[simp] theorem setPhase_tree : (setPhase p s).tree = s.tree := rfl
@[simp] theorem setPhase_ilen : (setPhase p s).ilen = s.ilen := rfl
@[simp] theorem setPhase_cfgv : (setPhase p s).cfgv = s.cfgv := rfl
@[simp] theorem setPhase_ckeyed : (setPhase p s).ckeyed = s.ckeyed := rfl
@[simp] theorem setPhase_fault : (setPhase p s).fault = s.fault := rfl
@[simp] theorem setPhase_olmShort : (setPhase p s).olmShort = s.olmShort := rfl
@[simp] theorem setPhase_olmTrunc : (setPhase p s).olmTrunc = s.olmTrunc := rfl
@[simp] theorem setPhase_firstpend : (setPhase p s).firstpend = s.firstpend := rfl
@[simp] theorem setPhase_cfgdone : (setPhase p s).cfgdone = s.cfgdone := rfl
@[simp] theorem setPhase_phase : (setPhase p s).phase = p := rfl
@[simp] theorem setPhase_lasttype : (setPhase p s).lasttype = s.lasttype := rfl
@[simp] theorem setPhase_err : (setPhase p s).err = s.err := rfl
@[simp] theorem setPhase_cfgnw : (setPhase p s).cfgnw = s.cfgnw := rfl
@[simp] theorem setPhase_cfgnr : (setPhase p s).cfgnr = s.cfgnr := rfl
@[simp] theorem setPhase_bpos : (setPhase p s).bpos = s.bpos := rfl
@[simp] theorem setPhase_houtlen : (setPhase p s).houtlen = s.houtlen := rfl
@[simp] theorem setPhase_script : (setPhase p s).script = s.script := rfl
@[simp] theorem setPhase_reads : (setPhase p s).reads = s.reads := rfl
end

section
variable (t : BitVec 6) (s : State)
@[simp] theorem setLasttype_key : (setLasttype t s).key = s.key := rfl
@[simp] theorem setLasttype_twk0 : (setLasttype t s).twk0 = s.twk0 := rfl
@[simp] theorem setLasttype_twk1 : (setLasttype t s).twk1 = s.twk1 := rfl
@[simp] theorem setLasttype_blk : (setLasttype t s).blk = s.blk := rfl
@[simp] theorem setLasttype_res : (setLasttype t s).res = s.res := rfl
@[simp] theorem setLasttype_ks : (setLasttype t s).ks = s.ks := rfl
@[simp] theorem setLasttype_ts : (setLasttype t s).ts = s.ts := rfl
@[simp] theorem setLasttype_cv : (setLasttype t s).cv = s.cv := rfl
@[simp] theorem setLasttype_cb : (setLasttype t s).cb = s.cb := rfl
@[simp] theorem setLasttype_obuf : (setLasttype t s).obuf = s.obuf := rfl
@[simp] theorem setLasttype_olen : (setLasttype t s).olen = s.olen := rfl
@[simp] theorem setLasttype_bsize : (setLasttype t s).bsize = s.bsize := rfl
@[simp] theorem setLasttype_rounds : (setLasttype t s).rounds = s.rounds := rfl
@[simp] theorem setLasttype_pos : (setLasttype t s).pos = s.pos := rfl
@[simp] theorem setLasttype_outlen : (setLasttype t s).outlen = s.outlen := rfl
@[simp] theorem setLasttype_tree : (setLasttype t s).tree = s.tree := rfl
@[simp] theorem setLasttype_ilen : (setLasttype t s).ilen = s.ilen := rfl
@[simp] theorem setLasttype_cfgv : (setLasttype t s).cfgv = s.cfgv := rfl
@[simp] theorem setLasttype_ckeyed : (setLasttype t s).ckeyed = s.ckeyed := rfl
@[simp] theorem setLasttype_fault : (setLasttype t s).fault = s.fault := rfl
@[simp] theorem setLasttype_olmShort : (setLasttype t s).olmShort = s.olmShort := rfl
@[simp] theorem setLasttype_olmTrunc : (setLasttype t s).olmTrunc = s.olmTrunc := rfl
@[simp] theorem setLasttype_firstpend : (setLasttype t s).firstpend = s.firstpend := rfl
@[simp] theorem setLasttype_cfgdone : (setLasttype t s).cfgdone = s.cfgdone := rfl
@[simp] theorem setLasttype_phase : (setLasttype t s).phase = s.phase := rfl
@[simp] theorem setLasttype_lasttype : (setLasttype t s).lasttype = t := rfl
@[simp] theorem setLasttype_err : (setLasttype t s).err = s.err := rfl
@[simp] theorem setLasttype_cfgnw : (setLasttype t s).cfgnw = s.cfgnw := rfl
@[simp] theorem setLasttype_cfgnr : (setLasttype t s).cfgnr = s.cfgnr := rfl
@[simp] theorem setLasttype_bpos : (setLasttype t s).bpos = s.bpos := rfl
@[simp] theorem setLasttype_houtlen : (setLasttype t s).houtlen = s.houtlen := rfl
@[simp] theorem setLasttype_script : (setLasttype t s).script = s.script := rfl
@[simp] theorem setLasttype_reads : (setLasttype t s).reads = s.reads := rfl
end

section
variable (s : State)
@[simp] theorem setCfgdone_key : (setCfgdone s).key = s.key := rfl
@[simp] theorem setCfgdone_twk0 : (setCfgdone s).twk0 = s.twk0 := rfl
@[simp] theorem setCfgdone_twk1 : (setCfgdone s).twk1 = s.twk1 := rfl
@[simp] theorem setCfgdone_blk : (setCfgdone s).blk = s.blk := rfl
@[simp] theorem setCfgdone_res : (setCfgdone s).res = s.res := rfl
@[simp] theorem setCfgdone_ks : (setCfgdone s).ks = s.ks := rfl
@[simp] theorem setCfgdone_ts : (setCfgdone s).ts = s.ts := rfl
@[simp] theorem setCfgdone_cv : (setCfgdone s).cv = s.cv := rfl
@[simp] theorem setCfgdone_cb : (setCfgdone s).cb = s.cb := rfl
@[simp] theorem setCfgdone_obuf : (setCfgdone s).obuf = s.obuf := rfl
@[simp] theorem setCfgdone_olen : (setCfgdone s).olen = s.olen := rfl
@[simp] theorem setCfgdone_bsize : (setCfgdone s).bsize = s.bsize := rfl
@[simp] theorem setCfgdone_rounds : (setCfgdone s).rounds = s.rounds := rfl
@[simp] theorem setCfgdone_pos : (setCfgdone s).pos = s.pos := rfl
@[simp] theorem setCfgdone_outlen : (setCfgdone s).outlen = s.outlen := rfl
@[simp] theorem setCfgdone_tree : (setCfgdone s).tree = s.tree := rfl
@[simp] theorem setCfgdone_ilen : (setCfgdone s).ilen = s.ilen := rfl
@[simp] theorem setCfgdone_cfgv : (setCfgdone s).cfgv = s.cfgv := rfl
@[simp] theorem setCfgdone_ckeyed : (setCfgdone s).ckeyed = s.ckeyed := rfl
@[simp] theorem setCfgdone_fault : (setCfgdone s).fault = s.fault := rfl
@[simp] theorem setCfgdone_olmShort : (setCfgdone s).olmShort = s.olmShort := rfl
@[simp] theorem setCfgdone_olmTrunc : (setCfgdone s).olmTrunc = s.olmTrunc := rfl
@[simp] theorem setCfgdone_firstpend : (setCfgdone s).firstpend = s.firstpend := rfl
@[simp] theorem setCfgdone_cfgdone : (setCfgdone s).cfgdone = true := rfl
@[simp] theorem setCfgdone_phase : (setCfgdone s).phase = s.phase := rfl
@[simp] theorem setCfgdone_lasttype : (setCfgdone s).lasttype = s.lasttype := rfl
@[simp] theorem setCfgdone_err : (setCfgdone s).err = s.err := rfl
@[simp] theorem setCfgdone_cfgnw : (setCfgdone s).cfgnw = s.cfgnw := rfl
@[simp] theorem setCfgdone_cfgnr : (setCfgdone s).cfgnr = s.cfgnr := rfl
@[simp] theorem setCfgdone_bpos : (setCfgdone s).bpos = s.bpos := rfl
@[simp] theorem setCfgdone_houtlen : (setCfgdone s).houtlen = s.houtlen := rfl
@[simp] theorem setCfgdone_script : (setCfgdone s).script = s.script := rfl
@[simp] theorem setCfgdone_reads : (setCfgdone s).reads = s.reads := rfl
end

section
variable (b : Bool) (s : State)
@[simp] theorem setFirstpend_key : (setFirstpend b s).key = s.key := rfl
@[simp] theorem setFirstpend_twk0 : (setFirstpend b s).twk0 = s.twk0 := rfl
@[simp] theorem setFirstpend_twk1 : (setFirstpend b s).twk1 = s.twk1 := rfl
@[simp] theorem setFirstpend_blk : (setFirstpend b s).blk = s.blk := rfl
@[simp] theorem setFirstpend_res : (setFirstpend b s).res = s.res := rfl
@[simp] theorem setFirstpend_ks : (setFirstpend b s).ks = s.ks := rfl
@[simp] theorem setFirstpend_ts : (setFirstpend b s).ts = s.ts := rfl
@[simp] theorem setFirstpend_cv : (setFirstpend b s).cv = s.cv := rfl
@[simp] theorem setFirstpend_cb : (setFirstpend b s).cb = s.cb := rfl
@[simp] theorem setFirstpend_obuf : (setFirstpend b s).obuf = s.obuf := rfl
@[simp] theorem setFirstpend_olen : (setFirstpend b s).olen = s.olen := rfl
@[simp] theorem setFirstpend_bsize : (setFirstpend b s).bsize = s.bsize := rfl
@[simp] theorem setFirstpend_rounds : (setFirstpend b s).rounds = s.rounds := rfl
@[simp] theorem setFirstpend_pos : (setFirstpend b s).pos = s.pos := rfl
@[simp] theorem setFirstpend_outlen : (setFirstpend b s).outlen = s.outlen := rfl
@[simp] theorem setFirstpend_tree : (setFirstpend b s).tree = s.tree := rfl
@[simp] theorem setFirstpend_ilen : (setFirstpend b s).ilen = s.ilen := rfl
@[simp] theorem setFirstpend_cfgv : (setFirstpend b s).cfgv = s.cfgv := rfl
@[simp] theorem setFirstpend_ckeyed : (setFirstpend b s).ckeyed = s.ckeyed := rfl
@[simp] theorem setFirstpend_fault : (setFirstpend b s).fault = s.fault := rfl
@[simp] theorem setFirstpend_olmShort : (setFirstpend b s).olmShort = s.olmShort := rfl
@[simp] theorem setFirstpend_olmTrunc : (setFirstpend b s).olmTrunc = s.olmTrunc := rfl
@[simp] theorem setFirstpend_firstpend : (setFirstpend b s).firstpend = b := rfl
@[simp] theorem setFirstpend_cfgdone : (setFirstpend b s).cfgdone = s.cfgdone := rfl
@[simp] theorem setFirstpend_phase : (setFirstpend b s).phase = s.phase := rfl
@[simp] theorem setFirstpend_lasttype : (setFirstpend b s).lasttype = s.lasttype := rfl
@[simp] theorem setFirstpend_err : (setFirstpend b s).err = s.err := rfl
@[simp] theorem setFirstpend_cfgnw : (setFirstpend b s).cfgnw = s.cfgnw := rfl
@[simp] theorem setFirstpend_cfgnr : (setFirstpend b s).cfgnr = s.cfgnr := rfl
@[simp] theorem setFirstpend_bpos : (setFirstpend b s).bpos = s.bpos := rfl
@[simp] theorem setFirstpend_houtlen : (setFirstpend b s).houtlen = s.houtlen := rfl
@[simp] theorem setFirstpend_script : (setFirstpend b s).script = s.script := rfl
@[simp] theorem setFirstpend_reads : (setFirstpend b s).reads = s.reads := rfl
end

section
variable (v : Word) (s : State)
@[simp] theorem setBpos_key : (setBpos v s).key = s.key := rfl
@[simp] theorem setBpos_twk0 : (setBpos v s).twk0 = s.twk0 := rfl
@[simp] theorem setBpos_twk1 : (setBpos v s).twk1 = s.twk1 := rfl
@[simp] theorem setBpos_blk : (setBpos v s).blk = s.blk := rfl
@[simp] theorem setBpos_res : (setBpos v s).res = s.res := rfl
@[simp] theorem setBpos_ks : (setBpos v s).ks = s.ks := rfl
@[simp] theorem setBpos_ts : (setBpos v s).ts = s.ts := rfl
@[simp] theorem setBpos_cv : (setBpos v s).cv = s.cv := rfl
@[simp] theorem setBpos_cb : (setBpos v s).cb = s.cb := rfl
@[simp] theorem setBpos_obuf : (setBpos v s).obuf = s.obuf := rfl
@[simp] theorem setBpos_olen : (setBpos v s).olen = s.olen := rfl
@[simp] theorem setBpos_bsize : (setBpos v s).bsize = s.bsize := rfl
@[simp] theorem setBpos_rounds : (setBpos v s).rounds = s.rounds := rfl
@[simp] theorem setBpos_pos : (setBpos v s).pos = s.pos := rfl
@[simp] theorem setBpos_outlen : (setBpos v s).outlen = s.outlen := rfl
@[simp] theorem setBpos_tree : (setBpos v s).tree = s.tree := rfl
@[simp] theorem setBpos_ilen : (setBpos v s).ilen = s.ilen := rfl
@[simp] theorem setBpos_cfgv : (setBpos v s).cfgv = s.cfgv := rfl
@[simp] theorem setBpos_ckeyed : (setBpos v s).ckeyed = s.ckeyed := rfl
@[simp] theorem setBpos_fault : (setBpos v s).fault = s.fault := rfl
@[simp] theorem setBpos_olmShort : (setBpos v s).olmShort = s.olmShort := rfl
@[simp] theorem setBpos_olmTrunc : (setBpos v s).olmTrunc = s.olmTrunc := rfl
@[simp] theorem setBpos_firstpend : (setBpos v s).firstpend = s.firstpend := rfl
@[simp] theorem setBpos_cfgdone : (setBpos v s).cfgdone = s.cfgdone := rfl
@[simp] theorem setBpos_phase : (setBpos v s).phase = s.phase := rfl
@[simp] theorem setBpos_lasttype : (setBpos v s).lasttype = s.lasttype := rfl
@[simp] theorem setBpos_err : (setBpos v s).err = s.err := rfl
@[simp] theorem setBpos_cfgnw : (setBpos v s).cfgnw = s.cfgnw := rfl
@[simp] theorem setBpos_cfgnr : (setBpos v s).cfgnr = s.cfgnr := rfl
@[simp] theorem setBpos_bpos : (setBpos v s).bpos = v := rfl
@[simp] theorem setBpos_houtlen : (setBpos v s).houtlen = s.houtlen := rfl
@[simp] theorem setBpos_script : (setBpos v s).script = s.script := rfl
@[simp] theorem setBpos_reads : (setBpos v s).reads = s.reads := rfl
end

section
variable (v : Word) (s : State)
@[simp] theorem setHoutlen_key : (setHoutlen v s).key = s.key := rfl
@[simp] theorem setHoutlen_twk0 : (setHoutlen v s).twk0 = s.twk0 := rfl
@[simp] theorem setHoutlen_twk1 : (setHoutlen v s).twk1 = s.twk1 := rfl
@[simp] theorem setHoutlen_blk : (setHoutlen v s).blk = s.blk := rfl
@[simp] theorem setHoutlen_res : (setHoutlen v s).res = s.res := rfl
@[simp] theorem setHoutlen_ks : (setHoutlen v s).ks = s.ks := rfl
@[simp] theorem setHoutlen_ts : (setHoutlen v s).ts = s.ts := rfl
@[simp] theorem setHoutlen_cv : (setHoutlen v s).cv = s.cv := rfl
@[simp] theorem setHoutlen_cb : (setHoutlen v s).cb = s.cb := rfl
@[simp] theorem setHoutlen_obuf : (setHoutlen v s).obuf = s.obuf := rfl
@[simp] theorem setHoutlen_olen : (setHoutlen v s).olen = s.olen := rfl
@[simp] theorem setHoutlen_bsize : (setHoutlen v s).bsize = s.bsize := rfl
@[simp] theorem setHoutlen_rounds : (setHoutlen v s).rounds = s.rounds := rfl
@[simp] theorem setHoutlen_pos : (setHoutlen v s).pos = s.pos := rfl
@[simp] theorem setHoutlen_outlen : (setHoutlen v s).outlen = s.outlen := rfl
@[simp] theorem setHoutlen_tree : (setHoutlen v s).tree = s.tree := rfl
@[simp] theorem setHoutlen_ilen : (setHoutlen v s).ilen = s.ilen := rfl
@[simp] theorem setHoutlen_cfgv : (setHoutlen v s).cfgv = s.cfgv := rfl
@[simp] theorem setHoutlen_ckeyed : (setHoutlen v s).ckeyed = s.ckeyed := rfl
@[simp] theorem setHoutlen_fault : (setHoutlen v s).fault = s.fault := rfl
@[simp] theorem setHoutlen_olmShort : (setHoutlen v s).olmShort = s.olmShort := rfl
@[simp] theorem setHoutlen_olmTrunc : (setHoutlen v s).olmTrunc = s.olmTrunc := rfl
@[simp] theorem setHoutlen_firstpend : (setHoutlen v s).firstpend = s.firstpend := rfl
@[simp] theorem setHoutlen_cfgdone : (setHoutlen v s).cfgdone = s.cfgdone := rfl
@[simp] theorem setHoutlen_phase : (setHoutlen v s).phase = s.phase := rfl
@[simp] theorem setHoutlen_lasttype : (setHoutlen v s).lasttype = s.lasttype := rfl
@[simp] theorem setHoutlen_err : (setHoutlen v s).err = s.err := rfl
@[simp] theorem setHoutlen_cfgnw : (setHoutlen v s).cfgnw = s.cfgnw := rfl
@[simp] theorem setHoutlen_cfgnr : (setHoutlen v s).cfgnr = s.cfgnr := rfl
@[simp] theorem setHoutlen_bpos : (setHoutlen v s).bpos = s.bpos := rfl
@[simp] theorem setHoutlen_houtlen : (setHoutlen v s).houtlen = v := rfl
@[simp] theorem setHoutlen_script : (setHoutlen v s).script = s.script := rfl
@[simp] theorem setHoutlen_reads : (setHoutlen v s).reads = s.reads := rfl
end

section
variable (n r : Word) (s : State)
@[simp] theorem setConfiguration_key : (setConfiguration n r s).key = s.key := rfl
@[simp] theorem setConfiguration_twk0 : (setConfiguration n r s).twk0 = s.twk0 := rfl
@[simp] theorem setConfiguration_twk1 : (setConfiguration n r s).twk1 = s.twk1 := rfl
@[simp] theorem setConfiguration_blk : (setConfiguration n r s).blk = s.blk := rfl
@[simp] theorem setConfiguration_res : (setConfiguration n r s).res = s.res := rfl
@[simp] theorem setConfiguration_ks : (setConfiguration n r s).ks = s.ks := rfl
@[simp] theorem setConfiguration_ts : (setConfiguration n r s).ts = s.ts := rfl
@[simp] theorem setConfiguration_cv : (setConfiguration n r s).cv = s.cv := rfl
@[simp] theorem setConfiguration_cb : (setConfiguration n r s).cb = s.cb := rfl
@[simp] theorem setConfiguration_obuf : (setConfiguration n r s).obuf = s.obuf := rfl
@[simp] theorem setConfiguration_olen : (setConfiguration n r s).olen = s.olen := rfl
@[simp] theorem setConfiguration_bsize : (setConfiguration n r s).bsize = s.bsize := rfl
@[simp] theorem setConfiguration_rounds : (setConfiguration n r s).rounds = s.rounds := rfl
@[simp] theorem setConfiguration_pos : (setConfiguration n r s).pos = s.pos := rfl
@[simp] theorem setConfiguration_outlen : (setConfiguration n r s).outlen = s.outlen := rfl
@[simp] theorem setConfiguration_tree : (setConfiguration n r s).tree = s.tree := rfl
@[simp] theorem setConfiguration_ilen : (setConfiguration n r s).ilen = s.ilen := rfl
@[simp] theorem setConfiguration_cfgv : (setConfiguration n r s).cfgv = true := rfl
@[simp] theorem setConfiguration_ckeyed : (setConfiguration n r s).ckeyed = s.ckeyed := rfl
@[simp] theorem setConfiguration_fault : (setConfiguration n r s).fault = s.fault := rfl
@[simp] theorem setConfiguration_olmShort : (setConfiguration n r s).olmShort = s.olmShort := rfl
@[simp] theorem setConfiguration_olmTrunc : (setConfiguration n r s).olmTrunc = s.olmTrunc := rfl
@[simp] theorem setConfiguration_firstpend : (setConfiguration n r s).firstpend = s.firstpend := rfl
@[simp] theorem setConfiguration_cfgdone : (setConfiguration n r s).cfgdone = s.cfgdone := rfl
@[simp] theorem setConfiguration_phase : (setConfiguration n r s).phase = s.phase := rfl
@[simp] theorem setConfiguration_lasttype : (setConfiguration n r s).lasttype = s.lasttype := rfl
@[simp] theorem setConfiguration_err : (setConfiguration n r s).err = s.err := rfl
@[simp] theorem setConfiguration_cfgnw : (setConfiguration n r s).cfgnw = n := rfl
@[simp] theorem setConfiguration_cfgnr : (setConfiguration n r s).cfgnr = r := rfl
@[simp] theorem setConfiguration_bpos : (setConfiguration n r s).bpos = s.bpos := rfl
@[simp] theorem setConfiguration_houtlen : (setConfiguration n r s).houtlen = s.houtlen := rfl
@[simp] theorem setConfiguration_script : (setConfiguration n r s).script = s.script := rfl
@[simp] theorem setConfiguration_reads : (setConfiguration n r s).reads = s.reads := rfl
end

section
variable (w : Nat) (raw : List Byte) (s : State)
@[simp] theorem deliver_key : (deliver w raw s).key = s.key := rfl
@[simp] theorem deliver_twk0 : (deliver w raw s).twk0 = s.twk0 := rfl
@[simp] theorem deliver_twk1 : (deliver w raw s).twk1 = s.twk1 := rfl
@[simp] theorem deliver_blk : (deliver w raw s).blk = s.blk := rfl
@[simp] theorem deliver_res : (deliver w raw s).res = s.res := rfl
@[simp] theorem deliver_ks : (deliver w raw s).ks = s.ks := rfl
@[simp] theorem deliver_ts : (deliver w raw s).ts = s.ts := rfl
@[simp] theorem deliver_cv : (deliver w raw s).cv = s.cv := rfl
@[simp] theorem deliver_cb : (deliver w raw s).cb = s.cb := rfl
@[simp] theorem deliver_obuf : (deliver w raw s).obuf = memWriteBytes [] 0 (raw.take w) := rfl
@[simp] theorem deliver_olen : (deliver w raw s).olen = BitVec.ofNat 64 (raw.take w).length := rfl
@[simp] theorem deliver_bsize : (deliver w raw s).bsize = s.bsize := rfl
@[simp] theorem deliver_rounds : (deliver w raw s).rounds = s.rounds := rfl
@[simp] theorem deliver_pos : (deliver w raw s).pos = s.pos := rfl
@[simp] theorem deliver_outlen : (deliver w raw s).outlen = s.outlen := rfl
@[simp] theorem deliver_tree : (deliver w raw s).tree = s.tree := rfl
@[simp] theorem deliver_ilen : (deliver w raw s).ilen = s.ilen := rfl
@[simp] theorem deliver_cfgv : (deliver w raw s).cfgv = s.cfgv := rfl
@[simp] theorem deliver_ckeyed : (deliver w raw s).ckeyed = s.ckeyed := rfl
@[simp] theorem deliver_fault : (deliver w raw s).fault = s.fault := rfl
@[simp] theorem deliver_olmShort : (deliver w raw s).olmShort = olmShortAfter raw.length w s.olmShort := rfl
@[simp] theorem deliver_olmTrunc : (deliver w raw s).olmTrunc = olmTruncAfter raw.length w s.olmTrunc := rfl
@[simp] theorem deliver_firstpend : (deliver w raw s).firstpend = s.firstpend := rfl
@[simp] theorem deliver_cfgdone : (deliver w raw s).cfgdone = s.cfgdone := rfl
@[simp] theorem deliver_phase : (deliver w raw s).phase = s.phase := rfl
@[simp] theorem deliver_lasttype : (deliver w raw s).lasttype = s.lasttype := rfl
@[simp] theorem deliver_err : (deliver w raw s).err = s.err := rfl
@[simp] theorem deliver_cfgnw : (deliver w raw s).cfgnw = s.cfgnw := rfl
@[simp] theorem deliver_cfgnr : (deliver w raw s).cfgnr = s.cfgnr := rfl
@[simp] theorem deliver_bpos : (deliver w raw s).bpos = s.bpos := rfl
@[simp] theorem deliver_houtlen : (deliver w raw s).houtlen = s.houtlen := rfl
@[simp] theorem deliver_script : (deliver w raw s).script = s.script := rfl
@[simp] theorem deliver_reads : (deliver w raw s).reads = s.reads := rfl
end

end Sys2Proof.Machine
end

