-- ==== Sys2Proof/Laws/Ops.lean ====
section
/-! SUPPORT. What each shared operation does, said once: the form of a command, the chaining step, a pass, the configuration
pass. A later proof cites these and does not unfold the operation. -/

namespace Sys2Proof.Machine

/-! ## The form of a command -/

/-- While FAULT = 1 a command is ignored (R134). -/
theorem command_faulted {cs : List (Bool × FaultKind)} {f : State → State} {s : State} (h : s.fault = true) :
    command cs f s = .next s := by simp [command, h]

/-- The first check that holds ends the command with its fault (R133, R139). -/
theorem command_raises {cs : List (Bool × FaultKind)} {f : State → State} {s : State} {k : FaultKind}
    (h : s.fault = false) (hc : firstRaised cs = some k) : command cs f s = .next (raise k s) := by
  simp [command, h, hc]

/-- With no check that holds, the command has its effect. -/
theorem command_runs {cs : List (Bool × FaultKind)} {f : State → State} {s : State} (h : s.fault = false)
    (hc : firstRaised cs = none) : command cs f s = .next (f s) := by simp [command, h, hc]

/-- Everything a command can do. -/
theorem command_cases {cs : List (Bool × FaultKind)} {f : State → State} {s t : State}
    (h : command cs f s = .next t) :
    (s.fault = true ∧ t = s) ∨ (∃ k, s.fault = false ∧ firstRaised cs = some k ∧ t = raise k s) ∨
      (s.fault = false ∧ firstRaised cs = none ∧ t = f s) := by
  unfold command at h
  split at h
  · exact .inl ⟨‹_›, (Host.Outcome.next.inj h).symm⟩
  · have hf : s.fault = false := Bool.eq_false_iff.mpr ‹_›
    split at h
    · exact .inr (.inl ⟨_, hf, ‹_›, (Host.Outcome.next.inj h).symm⟩)
    · exact .inr (.inr ⟨hf, ‹_›, (Host.Outcome.next.inj h).symm⟩)

/-- A command always answers a next state (R162). -/
theorem command_answers (cs : List (Bool × FaultKind)) (f : State → State) (s : State) :
    ∃ t, command cs f s = .next t := by
  unfold command
  split
  · exact ⟨_, rfl⟩
  · split <;> exact ⟨_, rfl⟩

@[simp] theorem firstRaised_nil : firstRaised [] = none := rfl

/-- The checks are made in order (R139). -/
@[simp] theorem firstRaised_cons (b : Bool) (k : FaultKind) (rest : List (Bool × FaultKind)) :
    firstRaised ((b, k) :: rest) = if b then some k else firstRaised rest := by
  cases b <;> rfl

/-- The capacity check is the comparison with OBUF_MAX (R4, R105). -/
theorem exceedsObuf_iff (need : Nat) : exceedsObuf need = true ↔ obufMax < need := by
  have h : 128 ≤ obufMax := Nat.le_mul_of_pos_right 128 (Nat.succ_pos _)
  simp only [exceedsObuf, Bool.and_eq_true, decide_eq_true_eq]
  exact ⟨And.right, fun hn => ⟨by omega, hn⟩⟩

/-! ## The chaining step and the passes, as the state they leave -/

/-- UbiUpdate (R82). -/
theorem ubiUpdate_eq (m : List Word) (t0 t1 : Word) (s : State) :
    ubiUpdate m t0 t1 s =
      { s with
        ks := writeLow s.ks (keySchedule (cvWords s)), ts := tweakSchedule t0 t1, ckeyed := true,
        cv := writeLow s.cv (feedForward (encrypt (blockWords s) (roundCount s) (keySchedule (cvWords s))
          (tweakSchedule t0 t1) m) m) } := rfl

/-- Pass (R102), the new chaining value being R117's Step of the old one. -/
theorem pass_eq (final first : Bool) (type : BitVec 6) (bitpad : Bool) (pos : Word) (m : List Word) (s : State) :
    pass final first type bitpad pos m s =
      { s with
        twk0 := pos, twk1 := (tweakEncode final first type bitpad pos).2,
        ks := writeLow s.ks (keySchedule (cvWords s)),
        ts := tweakSchedule pos (tweakEncode final first type bitpad pos).2, ckeyed := true,
        cv := writeLow s.cv
          (hashStep (blockWords s) (roundCount s) (cvWords s) final first type bitpad pos m) } := rfl

/-- The configuration pass (R103). -/
theorem configPass_eq (s : State) :
    configPass s =
      { s with
        cb := configBytes s.houtlen 0 0 0, twk0 := 32, twk1 := (tweakEncode true true tagCfg false 32).2,
        ks := writeLow s.ks (keySchedule (cvWords s)),
        ts := tweakSchedule 32 (tweakEncode true true tagCfg false 32).2, ckeyed := true,
        cv := writeLow s.cv (hashConfig (blockWords s) (roundCount s) s.houtlen (cvWords s)),
        cfgdone := true, phase := .pre, lasttype := tagCfg } := rfl

/-- EnsureConfig: nothing, or the configuration pass (R103). -/
theorem ensureConfig_cases (s : State) :
    (s.cfgdone = true ∧ ensureConfig s = s) ∨ (s.cfgdone = false ∧ ensureConfig s = configPass s) := by
  unfold ensureConfig
  cases h : s.cfgdone <;> simp

/-- OptPass (R104). -/
theorem optPass_eq (type : BitVec 6) (s : State) :
    optPass type s =
      { s with
        twk0 := s.ilen, twk1 := (tweakEncode true true type false s.ilen).2,
        ks := writeLow s.ks (keySchedule (cvWords s)),
        ts := tweakSchedule s.ilen (tweakEncode true true type false s.ilen).2, ckeyed := true,
        cv := writeLow s.cv (hashStep (blockWords s) (roundCount s) (cvWords s) true true type false s.ilen
          (inBlock s s.ilen.toNat)),
        lasttype := type } := rfl

/-! ## A state after passes -/

/-- `s` after passes of which the last had the tweak (t0, t1), found the chaining value `g0` and left `g`. -/
def afterPass (t0 t1 : Word) (g0 g : List Word) (s : State) : State :=
  { s with
    twk0 := t0, twk1 := t1, ks := writeLow s.ks (keySchedule g0), ts := tweakSchedule t0 t1, ckeyed := true,
    cv := writeLow s.cv g }

/-- A pass leaves R117's Step of the chaining value it finds (R102). -/
theorem pass_eq_afterPass (final first : Bool) (type : BitVec 6) (bitpad : Bool) (pos : Word) (m : List Word)
    (s : State) :
    pass final first type bitpad pos m s =
      afterPass pos (tweakEncode final first type bitpad pos).2 (cvWords s)
        (hashStep (blockWords s) (roundCount s) (cvWords s) final first type bitpad pos m) s := rfl

/-! ## What the used words of a bank are after a write of a whole block -/

theorem legalCount_le {nw : Nat} (h : LegalCount nw) : nw ≤ 16 := by
  rcases h with rfl | rfl | rfl <;> omega

theorem legalCount_pos {nw : Nat} (h : LegalCount nw) : 0 < nw := by
  rcases h with rfl | rfl | rfl <;> omega

/-- The used words of a bank are a block. -/
theorem length_cvWords {s : State} (h : LegalCount (blockWords s)) : (cvWords s).length = blockWords s := by
  have := legalCount_le h
  simp [cvWords, this]

theorem length_blkWords {s : State} (h : LegalCount (blockWords s)) : (blkWords s).length = blockWords s := by
  have := legalCount_le h
  simp [blkWords, this]

theorem length_keyWords {s : State} (h : LegalCount (blockWords s)) : (keyWords s).length = blockWords s := by
  have := legalCount_le h
  simp [keyWords, this]

/-- R117's Step gives a block. -/
theorem length_hashStep {nw : Nat} (h : LegalCount nw) (nr : Nat) (g : List Word) (final first : Bool)
    (type : BitVec 6) (bitpad : Bool) (pos : Word) {m : List Word} (hm : m.length = nw) :
    (hashStep nw nr g final first type bitpad pos m).length = nw := by
  simp [hashStep, length_encrypt h nr _ _ hm, hm]

/-- The used words of a bank after a block was written to it. -/
theorem take_writeLow_of_length {n nw : Nat} (bank : Vector Word n) {ws : List Word} (hw : ws.length = nw)
    (h : nw ≤ n) : (writeLow bank ws).toList.take nw = ws := by
  subst hw
  exact take_writeLow bank ws h

/-- Writing a block over a block leaves the second one. -/
theorem writeLow_writeLow {n : Nat} (bank : Vector Word n) {ws vs : List Word} (h : vs.length = ws.length)
    (hn : ws.length ≤ n) : writeLow (writeLow bank ws) vs = writeLow bank vs := by
  apply Vector.ext
  intro i hi
  by_cases hv : i < vs.length
  · rw [getElem_writeLow_lt _ _ (by omega) hi hv, getElem_writeLow_lt _ _ (by omega) hi hv]
  · rw [getElem_writeLow_ge _ _ (by omega) hi (by omega), getElem_writeLow_ge _ _ hn hi (by omega),
      getElem_writeLow_ge _ _ (by omega) hi (by omega)]

/-- The chaining value after passes is the one the last of them left. -/
theorem cvWords_afterPass {s : State} (h : LegalCount (blockWords s)) (t0 t1 : Word) (g0 : List Word) {g : List Word}
    (hg : g.length = blockWords s) : cvWords (afterPass t0 t1 g0 g s) = g :=
  take_writeLow_of_length s.cv hg (legalCount_le h)

/-- The key schedule after passes is that of the chaining value the last of them found. -/
theorem ksWords_afterPass {s : State} (h : LegalCount (blockWords s)) (t0 t1 : Word) {g0 : List Word} (g : List Word)
    (hg : g0.length = blockWords s) : ksWords (afterPass t0 t1 g0 g s) = keySchedule g0 :=
  take_writeLow_of_length s.ks (by rw [length_keySchedule, hg]; rfl) (by have := legalCount_le h; change blockWords s + 1 ≤ 17; omega)

/-- Of several passes only the last shows. -/
theorem afterPass_afterPass {s : State} (h : LegalCount (blockWords s)) (t0 t1 u0 u1 : Word) {g0 g h0 h1 : List Word}
    (hg0 : g0.length = blockWords s) (hg : g.length = blockWords s) (hh0 : h0.length = blockWords s)
    (hh1 : h1.length = blockWords s) :
    afterPass u0 u1 h0 h1 (afterPass t0 t1 g0 g s) = afterPass u0 u1 h0 h1 s := by
  have hle := legalCount_le h
  unfold afterPass
  congr 1
  · exact writeLow_writeLow _ (by simp [hg0, hh0]) (by simp [hg0]; omega)
  · exact writeLow_writeLow _ (by simp [hg, hh1]) (by omega)

/-! ## The output blocks -/

/-- R117's output loop gives blocks. -/
theorem length_hashOutput {nw : Nat} (h : LegalCount nw) (nr n : Nat) {g : List Word} (hg : g.length = nw) :
    ∀ k, (hashOutput nw nr n k g).1.length = nw
  | 0 => hg
  | k + 1 => length_hashStep h nr _ _ _ _ _ _ (length_counterBlock (legalCount_pos h) k)

/-- The tweak of output block j, the last of k of n (R113, R115). -/
def outputTweak (n k j : Nat) : Word := (tweakEncode (decide (k = n)) (decide (j = 0)) tagOut false (outPos j)).2

/-- The first k of n output blocks leave R117's chaining value and bytes (R113). -/
theorem outputBlocks_eq {s : State} (h : LegalCount (blockWords s)) (n : Nat) :
    ∀ k, (outputBlocks n k s).2 = (hashOutput (blockWords s) (roundCount s) n k (cvWords s)).2 ∧
      ((k = 0 ∧ (outputBlocks n k s).1 = s) ∨ ∃ j, k = j + 1 ∧
        (outputBlocks n k s).1 = afterPass (outPos j) (outputTweak n k j)
          (hashOutput (blockWords s) (roundCount s) n j (cvWords s)).1
          (hashOutput (blockWords s) (roundCount s) n k (cvWords s)).1 s)
  | 0 => ⟨rfl, .inl ⟨rfl, rfl⟩⟩
  | k + 1 => by
    obtain ⟨hb, hs⟩ := outputBlocks_eq h n k
    have hl : ∀ i, (hashOutput (blockWords s) (roundCount s) n i (cvWords s)).1.length = blockWords s :=
      length_hashOutput h _ _ (length_cvWords h)
    have key : (outputBlocks n (k + 1) s).1 = afterPass (outPos k) (outputTweak n (k + 1) k)
        (hashOutput (blockWords s) (roundCount s) n k (cvWords s)).1
        (hashOutput (blockWords s) (roundCount s) n (k + 1) (cvWords s)).1 s := by
      change pass _ _ _ _ _ _ (outputBlocks n k s).1 = _
      rw [pass_eq_afterPass]
      rcases hs with ⟨rfl, hs⟩ | ⟨j, rfl, hs⟩
      · rw [hs]
        rfl
      · rw [hs, cvWords_afterPass h _ _ _ (hl _)]
        exact afterPass_afterPass h _ _ _ _ (hl _) (hl _) (hl _) (hl (j + 1 + 1))
    refine ⟨?_, .inr ⟨k, rfl, key⟩⟩
    have : (outputBlocks n (k + 1) s).2 = (outputBlocks n k s).2 ++ bytesOf (cvWords (outputBlocks n (k + 1) s).1) := rfl
    rw [this, key, cvWords_afterPass h _ _ _ (hl _), hb]
    rfl

end Sys2Proof.Machine
end

