-- ==== Sys2Proof/Laws/Exec.lean ====
section
/-! SUPPORT. What executing a command can do, said once: its checks, its effect, and the four outcomes. A later proof cites
`exec_cases` and does not unfold `exec`. -/

namespace Sys2Proof.Machine

/-! ## The phase conditions, as the table of R100 states them -/

theorem lowLevelPhase_iff (s : State) : lowLevelPhase s = true ↔ s.phase = .idle ∨ s.phase = .done := by
  simp [lowLevelPhase]

theorem keyPhase_iff (s : State) : keyPhase s = true ↔ s.phase = .new := by simp [keyPhase]

theorem optionalPhase_iff (tag : BitVec 6) (s : State) :
    optionalPhase tag s = true ↔ s.phase = .new ∨ s.phase = .keyed ∨ (s.phase = .pre ∧ s.lasttype < tag) := by
  simp [optionalPhase, or_assoc]

theorem messagePhase_iff (s : State) :
    messagePhase s = true ↔ s.phase = .new ∨ s.phase = .keyed ∨ s.phase = .pre ∨ s.phase = .msg := by
  simp [messagePhase, or_assoc]

theorem outputPhase_iff (s : State) : outputPhase s = true ↔ s.phase = .msgdone := by simp [outputPhase]

/-! ## The checks and the effect of each command -/

/-- A command's checks in their order (R139). -/
def checksOf (i : Instr) (s : State) : List (Bool × FaultKind) :=
  match i with
  | .nop => []
  | .reset => []
  | .setcfg => [(!blockSizeSupported s.bsize, .blockSize), (!roundsSupported s.rounds, .rounds)]
  | .cinit => [(!s.cfgv, .sequenceError), (!lowLevelPhase s, .sequenceError)]
  | .cenc => [(!s.cfgv, .sequenceError), (!lowLevelPhase s, .sequenceError), (!s.ckeyed, .sequenceError)]
  | .cdec => [(!s.cfgv, .sequenceError), (!lowLevelPhase s, .sequenceError), (!s.ckeyed, .sequenceError)]
  | .uinit => [(!s.cfgv, .sequenceError), (!lowLevelPhase s, .sequenceError)]
  | .uinitz => [(!s.cfgv, .sequenceError), (!lowLevelPhase s, .sequenceError)]
  | .uupd => [(!s.cfgv, .sequenceError), (!lowLevelPhase s, .sequenceError)]
  | .uout => [(!s.cfgv, .sequenceError)]
  | .twenc tag _ _ _ => [(decide (63 < tag.toNat), .operandRange)]
  | .cfgser => []
  | .hinit =>
    [(!s.cfgv, .sequenceError), (s.outlen.toNat % 8 != 0, .outputLength), (s.tree != 0, .operandRange),
     (outputTooLarge s, .operandRange)]
  | .hkey => [(!s.cfgv, .sequenceError), (!keyPhase s, .sequenceError), (inputTooLong s, .inputTooLong)]
  | .hprs => [(!s.cfgv, .sequenceError), (!optionalPhase tagPrs s, .sequenceError), (inputTooLong s, .inputTooLong)]
  | .hpk => [(!s.cfgv, .sequenceError), (!optionalPhase tagPk s, .sequenceError), (inputTooLong s, .inputTooLong)]
  | .hkdf => [(!s.cfgv, .sequenceError), (!optionalPhase tagKdf s, .sequenceError), (inputTooLong s, .inputTooLong)]
  | .hnon => [(!s.cfgv, .sequenceError), (!optionalPhase tagNon s, .sequenceError), (inputTooLong s, .inputTooLong)]
  | .hmblk =>
    [(!s.cfgv, .sequenceError), (!messagePhase s, .sequenceError), (positionOverflow s (blockBytes s), .operandRange)]
  | .hmfin bitpad =>
    [(!s.cfgv, .sequenceError), (!messagePhase s, .sequenceError), (inputTooLong s, .inputTooLong),
     (emptyLastBlock bitpad s, .operandRange), (positionOverflow s s.ilen.toNat, .operandRange)]
  | .hout => [(!s.cfgv, .sequenceError), (!outputPhase s, .sequenceError)]

/-- A command's effect when no check holds. -/
def effectOf (i : Instr) : State → State :=
  match i with
  | .nop => id
  | .reset => fun s => faultReturn (clear s)
  | .setcfg => setcfgEffect
  | .cinit => cinitEffect
  | .cenc => cencEffect
  | .cdec => cdecEffect
  | .uinit => uinitEffect
  | .uinitz => uinitzEffect
  | .uupd => uupdEffect
  | .uout => uoutEffect
  | .twenc tag bitpad first final => twencEffect tag bitpad first final
  | .cfgser => cfgserEffect
  | .hinit => hinitEffect
  | .hkey => hkeyEffect
  | .hprs => optionalEffect tagPrs
  | .hpk => optionalEffect tagPk
  | .hkdf => optionalEffect tagKdf
  | .hnon => optionalEffect tagNon
  | .hmblk => hmblkEffect
  | .hmfin bitpad => hmfinEffect bitpad
  | .hout => houtEffect

/-- Every command but RESET has the form `command` (R133, R134, R139). -/
theorem exec_eq {i : Instr} (h : i ≠ .reset) (s : State) : exec i s = command (checksOf i s) (effectOf i) s := by
  cases i <;> first | rfl | exact absurd rfl h

/-- Everything a command can do: RESET; ignored; its fault; its effect. -/
theorem exec_cases {i : Instr} {s t : State} (h : exec i s = .next t) :
    (i = .reset ∧ t = faultReturn (clear s)) ∨ (i ≠ .reset ∧ s.fault = true ∧ t = s) ∨
    (∃ k, i ≠ .reset ∧ s.fault = false ∧ firstRaised (checksOf i s) = some k ∧ t = raise k s) ∨
    (i ≠ .reset ∧ s.fault = false ∧ firstRaised (checksOf i s) = none ∧ t = effectOf i s) := by
  by_cases hi : i = .reset
  · subst hi
    exact .inl ⟨rfl, (Host.Outcome.next.inj h).symm⟩
  · rw [exec_eq hi] at h
    rcases command_cases h with ⟨a, b⟩ | ⟨k, a, b, c⟩ | ⟨a, b, c⟩
    · exact .inr (.inl ⟨hi, a, b⟩)
    · exact .inr (.inr (.inl ⟨k, hi, a, b, c⟩))
    · exact .inr (.inr (.inr ⟨hi, a, b, c⟩))

/-- A command always answers a next state (R162). -/
theorem exec_answers (i : Instr) (s : State) : ∃ t, exec i s = .next t := by
  by_cases hi : i = .reset
  · subst hi
    exact ⟨_, rfl⟩
  · rw [exec_eq hi]
    exact command_answers _ _ _

/-- With no check that holds, a command has its effect. -/
theorem exec_runs {i : Instr} (hi : i ≠ .reset) {s : State} (h : s.fault = false)
    (hc : firstRaised (checksOf i s) = none) : exec i s = .next (effectOf i s) := by
  rw [exec_eq hi]
  exact command_runs h hc

/-- The first check that holds ends a command with its fault. -/
theorem exec_raises {i : Instr} (hi : i ≠ .reset) {s : State} {k : FaultKind} (h : s.fault = false)
    (hc : firstRaised (checksOf i s) = some k) : exec i s = .next (raise k s) := by
  rw [exec_eq hi]
  exact command_raises h hc

/-! ## The fields the sequencer's operations can write -/

theorem outputBlocks_frame (n : Nat) (s : State) : ∀ k, ∃ t0 t1 ks ts ck cv, (outputBlocks n k s).1 =
    { s with twk0 := t0, twk1 := t1, ks := ks, ts := ts, ckeyed := ck, cv := cv }
  | 0 => ⟨_, _, _, _, _, _, rfl⟩
  | k + 1 => by
    obtain ⟨t0, t1, ks, ts, ck, cv, h⟩ := outputBlocks_frame n s k
    change ∃ t0 t1 ks ts ck cv, outputPass n k (outputBlocks n k s).1 = _
    rw [h]
    exact ⟨_, _, _, _, _, _, rfl⟩

theorem ensureConfig_frame (s : State) : ∃ cb t0 t1 ks ts ck cv cd ph lt, ensureConfig s =
    { s with
      cb := cb, twk0 := t0, twk1 := t1, ks := ks, ts := ts, ckeyed := ck, cv := cv, cfgdone := cd, phase := ph,
      lasttype := lt } := by
  rcases ensureConfig_cases s with ⟨_, h⟩ | ⟨_, h⟩ <;> rw [h]
  · exact ⟨_, _, _, _, _, _, _, _, _, _, rfl⟩
  · exact ⟨_, _, _, _, _, _, _, _, _, _, configPass_eq s⟩

theorem optionalEffect_frame (tag : BitVec 6) (s : State) : ∃ cb t0 t1 ks ts ck cv cd ph lt, optionalEffect tag s =
    { s with
      cb := cb, twk0 := t0, twk1 := t1, ks := ks, ts := ts, ckeyed := ck, cv := cv, cfgdone := cd, phase := ph,
      lasttype := lt } := by
  obtain ⟨cb, t0, t1, ks, ts, ck, cv, cd, ph, lt, h⟩ := ensureConfig_frame s
  unfold optionalEffect
  rw [h, optPass_eq]
  exact ⟨_, _, _, _, _, _, _, _, _, _, rfl⟩

theorem messageBlock_frame (final bitpad : Bool) (n : Nat) (m : List Word) (after : Phase) (s : State) :
    ∃ cb t0 t1 ks ts ck cv cd ph lt bp fp, messageBlock final bitpad n m after s =
      { s with
        cb := cb, twk0 := t0, twk1 := t1, ks := ks, ts := ts, ckeyed := ck, cv := cv, cfgdone := cd, phase := ph,
        lasttype := lt, bpos := bp, firstpend := fp } := by
  obtain ⟨cb, t0, t1, ks, ts, ck, cv, cd, ph, lt, h⟩ := ensureConfig_frame s
  unfold messageBlock
  rw [h]
  exact ⟨_, _, _, _, _, _, _, _, _, _, _, _, rfl⟩

end Sys2Proof.Machine
end

