-- ==== Sys2Proof/Laws/HostScripts.lean ====
section
/-! SUPPORT. Which pseudo-commands have an expansion, and what it is. A later proof cites these and does not unfold the
scripts' matches. -/

namespace Sys2Proof.Machine

/-- One move a word. -/
@[simp] theorem length_writeWords : ∀ (n : Nat) (ws : List Word), (writeWords n ws).length = ws.length
  | _, [] => rfl
  | n, _ :: ws => congrArg (· + 1) (length_writeWords (n + 1) ws)

/-- One move for each of the sixteen BLK registers. -/
@[simp] theorem length_writeBlk (x : List Byte) : (writeBlk x).length = 16 := by
  rw [writeBlk, length_writeWords, length_blockOf]

/-- One move a register. -/
@[simp] theorem length_readWords (r n : Nat) : (readWords r n).length = n := by simp [readWords]

/-- HOPT expands exactly for an input of at most one block. -/
theorem hoptScript_eq_some {nb : Nat} {cmd : OptionalCommand} {s : List Byte} {l : List HostMove} :
    hoptScript nb cmd s = some l ↔ s.length ≤ nb ∧
      writeBlk s ++ [.write 0x0A (BitVec.ofNat 64 s.length), issue (optionalInstr cmd)] = l := by
  unfold hoptScript
  split <;> simp [*]

/-- HOPT has no expansion exactly for an input longer than a block. -/
theorem hoptScript_eq_none {nb : Nat} {cmd : OptionalCommand} {s : List Byte} :
    hoptScript nb cmd s = none ↔ nb < s.length := by
  unfold hoptScript
  split <;> simp <;> omega

/-- An absent input expands to nothing. -/
@[simp] theorem optionalScript_none (nb : Nat) (cmd : OptionalCommand) : optionalScript nb cmd none = some [] := rfl

/-- A present input expands to its HOPT. -/
@[simp] theorem optionalScript_some (nb : Nat) (cmd : OptionalCommand) (s : List Byte) :
    optionalScript nb cmd (some s) = hoptScript nb cmd s := rfl

/-- An optional input has no expansion exactly where it is present and longer than a block. -/
theorem optionalScript_eq_none {nb : Nat} {cmd : OptionalCommand} {s : Option (List Byte)} :
    optionalScript nb cmd s = none ↔ ∃ y, s = some y ∧ nb < y.length := by
  cases s <;> simp [hoptScript_eq_none]

/-- No inputs expand to nothing. -/
@[simp] theorem optionalScripts_nil (nb : Nat) : optionalScripts nb [] = some [] := rfl

/-- The inputs expand to the first one's moves and then the others'. -/
theorem optionalScripts_cons_eq_some {nb : Nat} {x : OptionalCommand × Option (List Byte)}
    {xs : List (OptionalCommand × Option (List Byte))} {l : List HostMove} :
    optionalScripts nb (x :: xs) = some l ↔
      ∃ a b, optionalScript nb x.1 x.2 = some a ∧ optionalScripts nb xs = some b ∧ a ++ b = l := by
  rw [optionalScripts]
  cases optionalScript nb x.1 x.2 <;> cases optionalScripts nb xs <;> simp

/-- The inputs have no expansion exactly where one of them has none. -/
theorem optionalScripts_eq_none {nb : Nat} : ∀ {xs : List (OptionalCommand × Option (List Byte))},
    optionalScripts nb xs = none ↔ ∃ x ∈ xs, ∃ y, x.2 = some y ∧ nb < y.length
  | [] => by simp
  | x :: xs => by
    have h := optionalScripts_eq_none (nb := nb) (xs := xs)
    have h' := optionalScript_eq_none (nb := nb) (cmd := x.1) (s := x.2)
    rw [List.exists_mem_cons_iff, ← h, ← h', optionalScripts]
    cases optionalScript nb x.1 x.2 <;> cases optionalScripts nb xs <;> simp

/-- What HASH expands to, where it has an expansion. -/
theorem hashScript_eq_some {nw : Nat} {outBits : Word} {m : List Byte} {o : OptionalInputs} {bitpad : Bool}
    {l : List HostMove} :
    hashScript nw outBits m o bitpad = some l ↔ ∃ inputs, optionalScripts (8 * nw) (optionalList o) = some inputs ∧
      [.write 0x08 outBits, .write 0x09 0, issue .hinit] ++ inputs ++ hmsgScript nw bitpad m ++ [issue .hout]
        ++ digestReads (outBits.toNat / 8) = l := by
  unfold hashScript
  cases optionalScripts (8 * nw) (optionalList o) <;> simp

/-- HASH has no expansion exactly where one of its optional inputs has none. -/
theorem hashScript_eq_none {nw : Nat} {outBits : Word} {m : List Byte} {o : OptionalInputs} {bitpad : Bool} :
    hashScript nw outBits m o bitpad = none ↔ optionalScripts (8 * nw) (optionalList o) = none := by
  unfold hashScript
  cases optionalScripts (8 * nw) (optionalList o) <;> simp

end Sys2Proof.Machine
end

