-- ==== Sys2Proof/Laws/Memory.lean ====
section
/-! SUPPORT. The digest buffer: every operation keeps the canonical form, a read gives what was last written, and reset's
buffer has the form. -/

namespace Sys2Proof.Machine

theorem memoryWfFrom_mono {lo lo' : Nat} (h : lo' ≤ lo) :
    ∀ {m : Memory}, memoryWfFrom lo m = true → memoryWfFrom lo' m = true
  | [], _ => rfl
  | (a, b) :: m, hm => by
    simp only [memoryWfFrom, Bool.and_eq_true, decide_eq_true_eq] at hm ⊢
    exact ⟨⟨by omega, hm.1.2⟩, hm.2⟩

/-- A canonical list that starts above an offset holds nothing there. -/
theorem memRead_below : ∀ {m : Memory} {lo k : Nat}, memoryWfFrom lo m = true → k < lo → memRead m k = 0
  | [], _, _, _, _ => rfl
  | (a, b) :: m, lo, k, hm, hk => by
    simp only [memoryWfFrom, Bool.and_eq_true, decide_eq_true_eq] at hm
    rw [memRead, if_neg (by omega)]
    exact memRead_below hm.2 (by omega)

theorem memWrite_wfFrom : ∀ {m : Memory} {lo k : Nat} {v : Byte},
    memoryWfFrom lo m = true → lo ≤ k → memoryWfFrom lo (memWrite m k v) = true
  | [], lo, k, v, _, hk => by
    by_cases hv : v = 0
    · rw [memWrite, if_pos hv]
      rfl
    · rw [memWrite, if_neg hv]
      simpa [memoryWfFrom, hk] using hv
  | (a, b) :: m, lo, k, v, hm, hk => by
    have hm' := hm
    simp only [memoryWfFrom, Bool.and_eq_true, decide_eq_true_eq, bne_iff_ne] at hm'
    obtain ⟨⟨h1, h2⟩, h3⟩ := hm'
    unfold memWrite
    split
    · split
      · exact hm
      · simp only [memoryWfFrom, Bool.and_eq_true, decide_eq_true_eq, bne_iff_ne]
        exact ⟨⟨hk, ‹_›⟩, ⟨by omega, h2⟩, h3⟩
    · split
      · subst k
        split
        · exact memoryWfFrom_mono (by omega) h3
        · simp only [memoryWfFrom, Bool.and_eq_true, decide_eq_true_eq, bne_iff_ne]
          exact ⟨⟨h1, ‹_›⟩, h3⟩
      · simp only [memoryWfFrom, Bool.and_eq_true, decide_eq_true_eq, bne_iff_ne]
        exact ⟨⟨h1, h2⟩, memWrite_wfFrom h3 (by omega)⟩

/-- A store keeps the canonical form. -/
theorem memWrite_wf {m : Memory} (h : m.wf = true) (k : Nat) (v : Byte) : (memWrite m k v).wf = true :=
  memWrite_wfFrom h (Nat.zero_le k)

/-- MemWrite keeps the canonical form. -/
theorem memWriteBytes_wf : ∀ (bs : List Byte) {m : Memory} (k : Nat), m.wf = true → (memWriteBytes m k bs).wf = true
  | [], _, _, h => h
  | b :: bs, _, k, h => memWriteBytes_wf bs (k + 1) (memWrite_wf h k b)

/-- The buffer with nothing listed is in canonical form. -/
theorem memory_empty_wf : Memory.wf [] = true := rfl

/-- The buffer right after reset is in canonical form. -/
theorem reset_obuf_wf : State.reset.obuf.wf = true := rfl

theorem memRead_memWrite_from : ∀ {m : Memory} {lo : Nat}, memoryWfFrom lo m = true → ∀ (k : Nat) (v : Byte) (j : Nat),
    memRead (memWrite m k v) j = if j = k then v else memRead m j
  | [], _, _, k, v, j => by
    by_cases hv : v = 0
    · simp [memWrite, hv, memRead]
    · rw [memWrite, if_neg hv]
      by_cases hj : j = k
      · simp [memRead, hj]
      · simp [memRead, hj, Ne.symm hj]
  | (a, b) :: m, lo, hm, k, v, j => by
    simp only [memoryWfFrom, Bool.and_eq_true, decide_eq_true_eq] at hm
    unfold memWrite
    split
    · rename_i hka
      have hk : memRead ((a, b) :: m) k = 0 := by
        rw [memRead, if_neg (by omega)]
        exact memRead_below hm.2 (by omega)
      split
      · subst v
        by_cases hj : j = k
        · simp [hj, hk]
        · simp [hj]
      · by_cases hj : j = k
        · simp [memRead, hj]
        · rw [if_neg hj, memRead, if_neg (Ne.symm hj)]
    · split
      · subst k
        have ha : memRead m a = 0 := memRead_below hm.2 (by omega)
        split
        · subst v
          by_cases hj : j = a
          · simp [hj, ha]
          · simp [hj, memRead, Ne.symm hj]
        · by_cases hj : j = a
          · simp [hj, memRead]
          · simp [hj, memRead, Ne.symm hj]
      · by_cases hj : j = a
        · subst hj
          rw [memRead, if_pos rfl, if_neg (by omega), memRead, if_pos rfl]
        · rw [memRead, if_neg (Ne.symm hj), memRead_memWrite_from hm.2 k v j, memRead, if_neg (Ne.symm hj)]

/-- A read after a store: the stored byte at its offset, what was there before at every other. -/
theorem memRead_memWrite {m : Memory} (h : m.wf = true) (k : Nat) (v : Byte) (j : Nat) :
    memRead (memWrite m k v) j = if j = k then v else memRead m j :=
  memRead_memWrite_from h k v j

/-- A read after MemWrite: the stored bytes in their range, what was there before outside it. -/
theorem memRead_memWriteBytes : ∀ (bs : List Byte) {m : Memory} (k : Nat), m.wf = true → ∀ j,
    memRead (memWriteBytes m k bs) j = if k ≤ j ∧ j < k + bs.length then bs.getD (j - k) 0 else memRead m j
  | [], m, k, _, j => by
    rw [if_neg (by simp only [List.length_nil]; omega)]
    rfl
  | b :: bs, m, k, h, j => by
    rw [memWriteBytes, memRead_memWriteBytes bs (k + 1) (memWrite_wf h k b) j, memRead_memWrite h]
    by_cases hj : j = k
    · subst hj
      rw [if_neg (by omega), if_pos rfl, if_pos (by simp only [List.length_cons]; omega)]
      simp
    · by_cases hin : k + 1 ≤ j ∧ j < k + 1 + bs.length
      · rw [if_pos hin, if_pos (by simp only [List.length_cons]; omega)]
        obtain ⟨d, rfl⟩ : ∃ d, j = k + 1 + d := ⟨j - (k + 1), by omega⟩
        rw [show k + 1 + d - (k + 1) = d by omega, show k + 1 + d - k = d + 1 by omega, List.getD_cons_succ]
      · rw [if_neg hin, if_neg hj, if_neg (by simp only [List.length_cons]; omega)]

/-- What a read of the digest buffer gives after a byte string is stored from offset 0 into an empty buffer. -/
theorem memRead_stored (bs : List Byte) (j : Nat) : memRead (memWriteBytes [] 0 bs) j = bs.getD j 0 := by
  rw [memRead_memWriteBytes bs 0 memory_empty_wf j]
  by_cases h : j < bs.length
  · rw [if_pos (by omega), Nat.sub_zero]
  · rw [if_neg (by omega), List.getD_eq_default _ _ (by omega)]
    rfl

end Sys2Proof.Machine
end

