-- ==== Sys2Proof/Laws/PerInstr.lean ====
section
/-! SUPPORT. The family EncodedLegal: the command word of every command passes every check of R136, and its opcode byte and
fields are the ones R50 and R51 give it. One lemma per constructor. -/

namespace Sys2Proof.Laws.EncodedLegal

/-- The command word is none of R136's illegal values. -/
def Statement (i : Instr) : Prop := wordLegal (encode i) = true

theorem nop : Statement .nop := by unfold Statement; decide

theorem reset : Statement .reset := by unfold Statement; decide

theorem setcfg : Statement .setcfg := by unfold Statement; decide

theorem cinit : Statement .cinit := by unfold Statement; decide

theorem cenc : Statement .cenc := by unfold Statement; decide

theorem cdec : Statement .cdec := by unfold Statement; decide

theorem uinit : Statement .uinit := by unfold Statement; decide

theorem uinitz : Statement .uinitz := by unfold Statement; decide

theorem uupd : Statement .uupd := by unfold Statement; decide

theorem uout : Statement .uout := by unfold Statement; decide

theorem twenc (tag : BitVec 8) (bitpad first final : Bool) : Statement (.twenc tag bitpad first final) := by
  unfold Statement
  revert tag bitpad first final
  decide +kernel

theorem cfgser : Statement .cfgser := by unfold Statement; decide

theorem hinit : Statement .hinit := by unfold Statement; decide

theorem hkey : Statement .hkey := by unfold Statement; decide

theorem hprs : Statement .hprs := by unfold Statement; decide

theorem hpk : Statement .hpk := by unfold Statement; decide

theorem hkdf : Statement .hkdf := by unfold Statement; decide

theorem hnon : Statement .hnon := by unfold Statement; decide

theorem hmblk : Statement .hmblk := by unfold Statement; decide

theorem hmfin (bitpad : Bool) : Statement (.hmfin bitpad) := by
  unfold Statement
  revert bitpad
  decide

theorem hout : Statement .hout := by unfold Statement; decide

end Sys2Proof.Laws.EncodedLegal
end

