-- ==== Sys2Proof/Laws/Registers.lean ====
section
/-! SUPPORT. The register a number names (R32), and a step that reads or writes one. -/

namespace Sys2Proof.Machine

/-- OBUF has at least 128 bytes (R4). -/
theorem le_obufMax : 128 ≤ obufMax := Nat.le_mul_of_pos_right 128 (Nat.succ_pos _)

theorem regOf_key : ∀ i : Fin 16, regOf (0x20 + i.val) = .key i := by decide

theorem regOf_blk : ∀ i : Fin 16, regOf (0x30 + i.val) = .blk i := by decide

theorem regOf_res : ∀ i : Fin 16, regOf (0x40 + i.val) = .res i := by decide

theorem regOf_cbw : ∀ j : Fin 4, regOf (0x50 + j.val) = .cbw j := by decide

theorem regOf_obw {j : Nat} (hj : j < obufMax / 8) : regOf (0x60 + j) = .obw j := by
  unfold regOf
  rw [if_neg (by omega), if_neg (by omega), if_neg (by omega), if_neg (by omega), if_neg (by omega), if_neg (by omega),
    if_pos (by omega), Nat.add_sub_cancel_left]

/-- CMD is register 00 only (R32). -/
theorem regOf_ne_cmd {n : Nat} (h : n ≠ 0) : regOf n ≠ .cmd := by
  by_cases hn : n < 0x20
  · interval_cases n <;> first | exact absurd rfl h | decide
  · unfold regOf
    rw [if_neg hn]
    split_ifs <;> simp

/-- The numbers without a register (R32). -/
theorem regOf_reserved {n : Nat}
    (h : n = 0x0E ∨ n = 0x0F ∨ (0x12 ≤ n ∧ n < 0x20) ∨ (0x54 ≤ n ∧ n < 0x60) ∨ 0x60 + obufMax / 8 ≤ n) :
    regOf n = .reserved := by
  have := le_obufMax
  by_cases hn : n < 0x20
  · interval_cases n <;> first | rfl | omega
  · unfold regOf
    rw [if_neg hn, if_neg (by omega), if_neg (by omega), if_neg (by omega), if_neg (by omega)]
    split_ifs <;> first | rfl | omega

/-- The registers that are neither the host's operands nor its control registers ignore a write (R33). -/
theorem writeReg_ignored {n : Nat} (h : n ∉ [0x03, 0x04, 0x07, 0x08, 0x09, 0x0A, 0x10, 0x11]) (hr : ¬(0x20 ≤ n ∧ n < 0x40))
    (v : Word) (s : State) : writeReg (regOf n) v s = s := by
  by_cases hn : n < 0x20
  · interval_cases n <;> first | rfl | exact absurd (by decide) h
  · unfold regOf
    rw [if_neg hn, if_neg (by omega), if_neg (by omega)]
    split_ifs <;> rfl

/-- A step that reads a register (R33, R163). -/
theorem step_read {s : State} {n : Nat} {rest : List HostMove} (h : s.script = .read n :: rest) :
    step s = .next (hostRead n { s with script := rest }) := by
  simp only [step, scriptStep, h, hostMove]

/-- A step that writes a register other than CMD (R33, R163). -/
theorem step_write {s : State} {n : Nat} {v : Word} {rest : List HostMove} (h : s.script = .write n v :: rest)
    (hn : n ≠ 0) : step s = .next (writeReg (regOf n) v { s with script := rest }) := by
  have hc := regOf_ne_cmd hn
  simp only [step, scriptStep, h, hostMove, hostWrite]

/-- A step that writes CMD (R22, R163). -/
theorem step_command {s : State} {w : Word} {rest : List HostMove} (h : s.script = .write 0 w :: rest) :
    step s = writeCmd w { s with script := rest } := by
  simp [step, scriptStep, h, hostMove, hostWrite, regOf, controlRegOf]

end Sys2Proof.Machine
end

