-- ==== Sys2Proof/Laws/Run.lean ====
section
/-! SUPPORT. Runs of several steps: one step at a time, cut in two, and the host's writes of a whole block. -/

namespace Sys2Proof.Machine

/-- No step. -/
theorem run_zero (s : State) : core.run 0 s = .next s := rfl

/-- One step and the rest, on any machine. -/
theorem coreRun_succ (M : Host.Core) {s t : M.State} (h : M.step s = .next t) (k : Nat) :
    M.run (k + 1) s = M.run k t := by
  rw [Host.Core.run, h]

/-- A run cut in two, on any machine. -/
theorem coreRun_add (M : Host.Core) {t : M.State} : ∀ {j : Nat} {s : M.State}, M.run j s = .next t → ∀ k,
    M.run (j + k) s = M.run k t
  | 0, s, h, k => by
    rw [Host.Core.run] at h
    cases h
    rw [Nat.zero_add]
  | j + 1, s, h, k => by
    rw [Host.Core.run] at h
    split at h
    · rw [Nat.add_right_comm, coreRun_succ M ‹_›]
      exact coreRun_add M h k
    · cases h
    · cases h

/-- One step and the rest. -/
theorem run_succ {s t : State} (h : step s = .next t) (k : Nat) : core.run (k + 1) s = core.run k t :=
  coreRun_succ core h k

/-- A run cut in two. -/
theorem run_add {s t : State} {j : Nat} (h : core.run j s = .next t) (k : Nat) :
    core.run (j + k) s = core.run k t :=
  coreRun_add core h k

/-- Writes of words to the BLK registers from number `n` on: BLK holds them there, and the rest is as it was (R55). -/
theorem run_writeWords_blk {rest : List HostMove} : ∀ (ws : List Word) (n : Nat) {s : State},
    n + ws.length ≤ 16 → s.script = writeWords (0x30 + n) ws ++ rest →
    ∃ b : Vector Word 16, core.run ws.length s = .next { s with blk := b, script := rest } ∧
      b.toList = s.blk.toList.take n ++ ws ++ s.blk.toList.drop (n + ws.length)
  | [], n, s, _, hs => ⟨s.blk, by obtain rfl : s.script = rest := hs; rfl, by simp⟩
  | w :: ws, n, s, hn, hs => by
    have hn' : n + 1 + ws.length ≤ 16 := by simp only [List.length_cons] at hn; omega
    have h1 := step_write hs (by omega)
    rw [regOf_blk ⟨n, by omega⟩] at h1
    obtain ⟨b, hb, hl⟩ := run_writeWords_blk ws (n + 1)
      (s := { s with blk := s.blk.set n w, script := writeWords (0x30 + n + 1) ws ++ rest }) hn' rfl
    refine ⟨b, (run_succ h1 _).trans hb, ?_⟩
    rw [hl]
    have hlen : s.blk.toList.length = 16 := by simp
    simp only [Vector.toList_set, List.length_cons]
    rw [List.drop_set_of_lt (by omega), List.take_set, List.take_add_one, List.getElem?_eq_getElem (by omega)]
    simp [Nat.add_assoc, Nat.add_comm 1, Nat.min_eq_left (show n ≤ 16 by omega)]

/-- `BLK <- bytes(x)`: the words of `x`, extended with zero bytes, in all sixteen BLK registers (R55). -/
theorem run_writeBlk {rest : List HostMove} {s : State} (x : List Byte) (hs : s.script = writeBlk x ++ rest) :
    ∃ b : Vector Word 16, core.run 16 s = .next { s with blk := b, script := rest } ∧ b.toList = blockOf 16 x := by
  have hl := length_blockOf 16 x
  obtain ⟨b, hb, h⟩ := run_writeWords_blk (blockOf 16 x) 0 (by omega) hs
  rw [hl] at hb
  exact ⟨b, hb, by rw [h, hl]; simp⟩

end Sys2Proof.Machine
end

