-- ==== Sys2Proof/Tests/Slice0.lean ====
section
/-! SUPPORT. The model's own tests: the well-formedness smoke test, decoding of words written out from the opcode map
(spec/30_encoding.md R51), one step of each command against spec/95_test_vectors.md and the rules' own examples, and for
every statement with hypotheses a witness that meets them. -/

namespace Sys2Proof.Tests

open Sys2Proof.Machine

/-! ## Helpers -/

/-- A configured, unfaulted engine in a phase, every bank zero. -/
def testAt (nw nr : Word) (p : Phase) : State :=
  { State.reset with cfgv := true, cfgnw := nw, cfgnr := nr, phase := p }

/-- The smallest configuration: blocks of four words, four rounds. -/
def testSmall (p : Phase) : State := testAt 4 4 p

/-- The step answers a next state for which the test holds. -/
def leads (o : Host.Outcome State Fault Refusal) (test : State → Bool) : Bool :=
  match o with
  | .next t => test t
  | .fault _ => false
  | .refused _ => false

/-- The first words of a bank. -/
def low {n : Nat} (bank : Vector Word n) (k : Nat) : List Word := bank.toList.take k

/-- A bank with the given first words. -/
def bank16 (ws : List Word) : Vector Word 16 := writeLow (Vector.replicate 16 0) ws

/-- A key schedule bank with the given first words. -/
def bank17 (ws : List Word) : Vector Word 17 := writeLow (Vector.replicate 17 0) ws

/-- STATUS and ERR of a state, as the host reads them. -/
def flags (s : State) : Word × Word := (readReg .status s, readReg .err s)

/-! ## Well-formedness: one ill-formed value for each check of R136 (spec/95_test_vectors.md E4) -/

theorem test_upper_bits_refused : upperClear 0x100000000 = false ∧ wordLegal 0x100000000 = false := by decide

theorem test_reserved_bits_refused : reservedClear 0x80000 = false ∧ wordLegal 0x80000 = false := by decide

theorem test_unknown_opcode_refused : opcodeKnown 0x03 = false ∧ wordLegal 0x03 = false := by decide

theorem test_type_outside_twenc_refused : tweakFieldsClear 0x111 = false ∧ wordLegal 0x111 = false := by decide

theorem test_first_outside_twenc_refused : tweakFieldsClear 0x20040 = false ∧ wordLegal 0x20040 = false := by decide

theorem test_final_outside_twenc_refused : tweakFieldsClear 0x40040 = false ∧ wordLegal 0x40040 = false := by decide

theorem test_bitpad_outside_its_commands_refused : bitpadClear 0x10046 = false ∧ wordLegal 0x10046 = false := by decide

theorem test_legal_word_accepted : wordLegal 0x73F30 = true := by decide

/-! ## Decoding: the patterns of R51 written out -/

theorem test_decode_nop : decode 0b00000000000000000000000000000000 = .ok .nop := by decide

theorem test_decode_reset : decode 0b00000000000000000000000000000001 = .ok .reset := by decide

theorem test_decode_setcfg : decode 0b00000000000000000000000000000010 = .ok .setcfg := by decide

theorem test_decode_cinit : decode 0b00000000000000000000000000010000 = .ok .cinit := by decide

theorem test_decode_cenc : decode 0b00000000000000000000000000010001 = .ok .cenc := by decide

theorem test_decode_cdec : decode 0b00000000000000000000000000010010 = .ok .cdec := by decide

theorem test_decode_uinit : decode 0b00000000000000000000000000100000 = .ok .uinit := by decide

theorem test_decode_uinitz : decode 0b00000000000000000000000000100001 = .ok .uinitz := by decide

theorem test_decode_uupd : decode 0b00000000000000000000000000100010 = .ok .uupd := by decide

theorem test_decode_uout : decode 0b00000000000000000000000000100011 = .ok .uout := by decide

/-- FINAL = 1, FIRST = 0, BITPAD = 1, TYPE = 0b00110000. -/
theorem test_decode_twenc :
    decode 0b00000000000001010011000000110000 = .ok (.twenc 48 true false true) := by decide

/-- FIRST alone. -/
theorem test_decode_twenc_first :
    decode 0b00000000000000100000000100110000 = .ok (.twenc 1 false true false) := by decide

theorem test_decode_cfgser : decode 0b00000000000000000000000000110001 = .ok .cfgser := by decide

theorem test_decode_hinit : decode 0b00000000000000000000000001000000 = .ok .hinit := by decide

theorem test_decode_hkey : decode 0b00000000000000000000000001000001 = .ok .hkey := by decide

theorem test_decode_hprs : decode 0b00000000000000000000000001000010 = .ok .hprs := by decide

theorem test_decode_hpk : decode 0b00000000000000000000000001000011 = .ok .hpk := by decide

theorem test_decode_hkdf : decode 0b00000000000000000000000001000100 = .ok .hkdf := by decide

theorem test_decode_hnon : decode 0b00000000000000000000000001000101 = .ok .hnon := by decide

theorem test_decode_hmblk : decode 0b00000000000000000000000001000110 = .ok .hmblk := by decide

theorem test_decode_hmfin : decode 0b00000000000000010000000001000111 = .ok (.hmfin true) := by decide

theorem test_decode_hout : decode 0b00000000000000000000000001001000 = .ok .hout := by decide

/-- The table's HMFIN row decodes and is the first command after reset. -/
theorem test_table_word : decodeTableWord 32 0x47 = some (.hmfin false) ∧
    leads (step (State.reset.withFetchWord 32 0x02)) (fun t => flags t == (0x4, 1)) = true := by decide

/-! ## Bytes, tables and the cipher's functions (spec/95_test_vectors.md section 3) -/

/-- R41's example. -/
theorem test_little_endian : bytesOf [0x0807060504030201] = [1, 2, 3, 4, 5, 6, 7, 8] ∧
    blockOf 1 [0x41] = [0x41] := by decide

theorem test_mix_wraps : mix 0xFFFFFFFFFFFFFFFF 1 14 = (0, 0x4000) ∧ unmix 3 0x8003 14 = (1, 2) := by decide

theorem test_key_parity : keySchedule [1, 2, 3, 4] = [1, 2, 3, 4, 0x1BD11BDAA9FC1A26] := by decide

/-- Subkey 1 of the key and tweak of V4. -/
theorem test_subkey :
    subkey 4 (keySchedule [0x1716151413121110, 0x1F1E1D1C1B1A1918, 0x2726252423222120, 0x2F2E2D2C2B2A2928])
      (tweakSchedule 0x0706050403020100 0x0F0E0D0C0B0A0908) 1 =
      [0x1F1E1D1C1B1A1918, 0x363432302E2C2A28, 0x3736353433323130, 0x1BD11BDAA9FC1A23] := by decide

/-- The round trace's rows 0 and 1 (V7). -/
theorem test_two_rounds :
    encRounds 4 (keySchedule [0, 0, 0, 0]) (tweakSchedule 0 0) [1, 2, 3, 4] 1 = [3, 0x40007, 7, 0x8003] ∧
    encRounds 4 (keySchedule [0, 0, 0, 0]) (tweakSchedule 0 0) [1, 2, 3, 4] 2 =
      [0x4000A, 0x060000000000810A, 0x800A, 0x007000000004004A] := by decide +kernel

/-! ## Control (spec/95_test_vectors.md section 7) -/

/-- K2. -/
theorem test_setcfg_accepts :
    leads (exec .setcfg { State.reset with bsize := 256, rounds := 4 })
      (fun t => flags t == (0x1, 0) && t.cfgnw == 4 && t.cfgnr == 4) = true := by decide +kernel

/-- K5: the block size is checked first; K4. -/
theorem test_setcfg_refuses :
    leads (exec .setcfg { State.reset with bsize := 100, rounds := 3 }) (fun t => flags t == (0x4, 1)) = true ∧
    leads (exec .setcfg { State.reset with bsize := 256, rounds := 70 }) (fun t => flags t == (0x4, 2)) = true := by
  decide +kernel

/-- E8b, K7: RESET from a faulted engine in PHASE = DONE. -/
theorem test_reset :
    leads (exec .reset { testSmall .done with fault := true, err := 5, olen := 30, twk0 := 8, ilen := 1, bsize := 256 })
      (fun t => flags t == (0x1, 0) && t.olen == 0 && t.twk0 == 0 && t.ilen == 1 && t.bsize == 256 && t.cfgnw == 4) =
      true := by decide +kernel

/-- K8. -/
theorem test_nop : leads (exec .nop (testSmall .msg)) (fun t => t == testSmall .msg) = true := by decide +kernel

/-- E8: a command is ignored while FAULT = 1, a register write is not. -/
theorem test_faulted_ignores :
    leads (exec .setcfg { testSmall .idle with fault := true, err := 4, bsize := 512, rounds := 72 })
      (fun t => flags t == (0x5, 4) && t.cfgnw == 4) = true ∧
    leads (hostWrite 3 256 { testSmall .idle with fault := true, err := 4 })
      (fun t => flags t == (0x5, 4) && t.bsize == 256) = true := by decide +kernel

/-! ## Cipher commands -/

/-- R70's example. -/
theorem test_cinit :
    leads (exec .cinit (testSmall .idle))
      (fun t => low t.ks 6 == [0, 0, 0, 0, 0x1BD11BDAA9FC1A22, 0] && t.ckeyed && t.ts.toList == [0, 0, 0]) = true := by
  decide +kernel

/-- E5b: a low-level command inside a hash. -/
theorem test_cinit_inside_hash :
    leads (exec .cinit { testAt 8 72 .new with firstpend := true }) (fun t => flags t == (0x125, 5)) = true := by
  decide +kernel

/-- R71's example, V1. -/
theorem test_cenc :
    leads (exec .cenc { testAt 4 72 .idle with ckeyed := true, ks := bank17 [0, 0, 0, 0, 0x1BD11BDAA9FC1A22] })
      (fun t => low t.res 5 == [0x94EEEA8B1F2ADA84, 0xADF103313EAE6670, 0x952419A1F4B16D53, 0xD83F13E63C9F6B11, 0]) =
      true := by decide +kernel

/-- E5a: not keyed. -/
theorem test_cenc_not_keyed :
    leads (exec .cenc (testSmall .idle)) (fun t => flags t == (0x5, 5)) = true := by decide +kernel

/-- R72's example. -/
theorem test_cdec :
    leads
      (exec .cdec
        { testAt 4 72 .idle with
          ckeyed := true
          ks := bank17 [0, 0, 0, 0, 0x1BD11BDAA9FC1A22]
          res := bank16 [1, 2, 3, 4]
          blk := bank16 [0x94EEEA8B1F2ADA84, 0xADF103313EAE6670, 0x952419A1F4B16D53, 0xD83F13E63C9F6B11] })
      (fun t => low t.res 4 == [0, 0, 0, 0]) = true := by decide +kernel

/-! ## UBI commands (spec/95_test_vectors.md section 4) -/

/-- R80's example; words beyond NW are kept (R34). -/
theorem test_uinit :
    leads (exec .uinit { testSmall .idle with blk := bank16 [1, 2, 3, 4, 5], cv := bank16 [9, 9, 9, 9, 9] })
      (fun t => low t.cv 5 == [1, 2, 3, 4, 9]) = true := by decide +kernel

theorem test_uinitz :
    leads (exec .uinitz { testSmall .done with cv := bank16 [9, 9, 9, 9, 9] }) (fun t => low t.cv 5 == [0, 0, 0, 0, 9]) =
      true := by decide +kernel

/-- U3. -/
theorem test_uupd :
    leads
      (exec .uupd
        { testAt 4 72 .idle with
          cv := bank16 [1, 2, 3, 4]
          blk := bank16 [5, 6, 7, 8]
          twk0 := 0x20
          twk1 := 0xF000000000000000 })
      (fun t => low t.cv 4 == [0x02FCF5BCB3FE98F1, 0x5253098BAE748C9C, 0xDB5E1EF736EB017F, 0x269727029EB44563]
        && low t.ks 5 == [1, 2, 3, 4, 0x1BD11BDAA9FC1A26]
        && t.ts.toList == [0x20, 0xF000000000000000, 0xF000000000000020]) = true := by decide +kernel

/-- R84: allowed in every phase. -/
theorem test_uout :
    leads (exec .uout { testSmall .msg with cv := bank16 [1, 2, 3, 4, 5] }) (fun t => low t.res 5 == [1, 2, 3, 4, 0]) =
      true := by decide +kernel

/-! ## Tweak encoder and serializer (spec/95_test_vectors.md section 5) -/

/-- T3. -/
theorem test_twenc :
    leads (exec (.twenc 63 true true true) { State.reset with pos := 0xFFFFFFFFFFFFFFFF })
      (fun t => t.twk0 == 0xFFFFFFFFFFFFFFFF && t.twk1 == 0xFF80000000000000) = true := by decide +kernel

/-- T4b. -/
theorem test_twenc_refuses :
    leads (exec (.twenc 64 false false false) State.reset) (fun t => flags t == (0x4, 7)) = true := by decide +kernel

/-- T7. -/
theorem test_cfgser :
    leads (exec .cfgser { State.reset with outlen := 0xFFFFFFFFFFFFFFFF, tree := 0x030201 })
      (fun t => (t.cb.toList.drop 8).take 11 == [0xFF, 0xFF, 0xFF, 0xFF, 0xFF, 0xFF, 0xFF, 0xFF, 1, 2, 3]
        && readReg (.cbw 0) t == 0x0000000133414853 && readReg (.cbw 2) t == 0x030201) = true := by decide +kernel

/-! ## Hash sequencer (spec/95_test_vectors.md sections 6, 8 and 9) -/

/-- P3, step 3. -/
theorem test_hinit :
    leads (exec .hinit { testAt 8 72 .done with outlen := 240, cfgdone := true, lasttype := 63, cv := bank16 [1] })
      (fun t => flags t == (0x121, 0) && t.houtlen == 240 && low t.cv 1 == [0]) = true := by decide +kernel

/-- E3b: the output length is checked before TREE; E7b. -/
theorem test_hinit_refuses :
    leads (exec .hinit { testAt 8 72 .idle with outlen := 241, tree := 1 }) (fun t => flags t == (0x5, 3)) = true ∧
    leads (exec .hinit { testAt 8 72 .idle with outlen := 240, tree := 1 }) (fun t => flags t == (0x5, 7)) = true := by
  decide +kernel

/-- An engine right after HINIT with OUTLEN = 240, in the source's configuration. -/
def testNew : State := { testAt 8 72 .new with houtlen := 240, firstpend := true }

/-- P3, step 5. -/
theorem test_hkey :
    leads (exec .hkey { testNew with blk := bank16 [0x30], ilen := 1 })
      (fun t => flags t == (0x223, 0) && t.twk0 == 1 && t.twk1 == 0xC000000000000000) = true := by decide +kernel

/-- E6a; E1: not configured comes before the length. -/
theorem test_hkey_refuses :
    leads (exec .hkey { testNew with ilen := 65 }) (fun t => flags t == (0x125, 6)) = true ∧
    leads (exec .hkey { State.reset with ilen := 1000 }) (fun t => flags t == (0x4, 5)) = true := by decide +kernel

/-- P3, step 7 (from PHASE = NEW: no key), and the chaining value H1 lists after the configuration pass as the key used. -/
theorem test_hprs :
    leads (exec .hprs { testNew with ilen := 12 })
      (fun t => flags t == (0x80363, 0) && t.twk0 == 12 && t.twk1 == 0xC800000000000000
        && readReg (.cbw 1) t == 0xF0
        && low t.ks 8 == [0xE2EF993D951A23A4, 0x7C929673977E8B61, 0x0A5D7AC0BC0CCF63, 0xB063876A413D6FD1,
          0x3C2AEF2427AA2243, 0x53FC5701F02C3A7A, 0x3CA3DAAD896F6BD4, 0x3A19F00626B56447]) = true := by decide +kernel

/-- E5c: personalization after public key. -/
theorem test_hprs_refuses :
    leads (exec .hprs { testNew with phase := .pre, cfgdone := true, ckeyed := true, lasttype := 12, ilen := 1 })
      (fun t => flags t == (0xC0367, 5)) = true := by decide +kernel

/-- E5c, the status after HPK; R108's example. -/
theorem test_hpk :
    leads (exec .hpk { testNew with ilen := 1 })
      (fun t => flags t == (0xC0363, 0) && t.twk0 == 1 && t.twk1 == 0xCC00000000000000) = true := by decide +kernel

/-- R109's example. -/
theorem test_hkdf :
    leads (exec .hkdf { testNew with ilen := 1 })
      (fun t => t.twk0 == 1 && t.twk1 == 0xD000000000000000 && t.lasttype == 16 && t.phase == .pre) = true := by
  decide +kernel

/-- R110's example. -/
theorem test_hnon :
    leads (exec .hnon { testNew with ilen := 1 })
      (fun t => t.twk0 == 1 && t.twk1 == 0xD400000000000000 && t.lasttype == 20 && t.phase == .pre) = true := by
  decide +kernel

/-- The state P4 has before its step 5. -/
def testMidMessage : State :=
  { testAt 8 72 .msg with
    houtlen := 240, cfgdone := true, ckeyed := true, lasttype := 48, bpos := 64, ilen := 1,
    blk := bank16 [0x40, 0x0F0E0D0C0B0A0908],
    cv := bank16 [0x5225BB5DDA672282, 0x0F022D772032BCDD, 0x3D95C5B0B4CC3882, 0xB4E883325430FC2D, 0xDF4C2452FD68A794,
      0x0D8E526B66DB5C66, 0x4760636912BAD53D, 0xA9B870AB11C2DAD8] }

/-- P4, step 3: the configuration pass and the first message block. -/
theorem test_hmblk :
    leads (exec .hmblk { testNew with blk := bank16 [0x0706050403020100, 0x0F0E0D0C0B0A0908, 0x1716151413121110,
        0x1F1E1D1C1B1A1918, 0x2726252423222120, 0x2F2E2D2C2B2A2928, 0x3736353433323130, 0x3F3E3D3C3B3A3938] })
      (fun t => flags t == (0x300443, 0) && t.bpos == 64 && t.twk0 == 0x40 && t.twk1 == 0x7000000000000000
        && t.cv == testMidMessage.cv) = true := by decide +kernel

/-- E7g. -/
theorem test_hmblk_refuses :
    leads (exec .hmblk { testMidMessage with bpos := 0xFFFFFFFFFFFFFFC0 }) (fun t => t.fault && t.err == 7) = true := by
  decide +kernel

/-- P4, step 5. -/
theorem test_hmfin :
    leads (exec (.hmfin false) testMidMessage)
      (fun t => flags t == (0x300543, 0) && t.bpos == 65 && t.twk0 == 0x41 && t.twk1 == 0xB000000000000000
        && low t.cv 8 == [0x880ABC2806191862, 0x54DD83E0D46556F8, 0x0E3FB1581BC2BCA8, 0xF0426C305257459E,
          0x78014A3ADA170271, 0xB73908EEA39703C3, 0x5A98E9F764C78040, 0x5EFD273A1AC52E2B]) = true := by decide +kernel

/-- E7e and E7f. -/
theorem test_hmfin_refuses :
    leads (exec (.hmfin false) { testMidMessage with ilen := 0 }) (fun t => flags t == (0x300447, 7)) = true ∧
    leads (exec (.hmfin true) testNew) (fun t => flags t == (0x125, 7)) = true := by decide +kernel

/-- H1: the output pass from the chaining value the message pass left, truncated to 30 bytes. -/
theorem test_hout :
    leads (exec .hout { testAt 8 72 .msgdone with
        houtlen := 240, cfgdone := true, ckeyed := true, lasttype := 48, bpos := 1,
        cv := bank16 [0x397733B6A575D75D, 0xA1E0B512CF09AF99, 0x83F60EF007605A5C, 0x3833C0564A58FABE, 0x66D396D23E68F2AB,
          0x01BCCC4924FB5B3A, 0x36A0C038C966D45E, 0xB733C0EC5A725B4B] })
      (fun t => flags t == (0x3F0653, 0) && t.olen == 30
        && memReadBytes t.obuf 0 32 == [0xEA, 0x62, 0xDE, 0xF9, 0x35, 0x41, 0xC4, 0xA5, 0xAD, 0x24, 0xA0, 0x8F, 0x87,
          0x48, 0x7F, 0xA3, 0xC0, 0xB1, 0xB9, 0x84, 0xC5, 0x13, 0xD5, 0x8B, 0xAB, 0xD4, 0x49, 0x45, 0xA8, 0xBD, 0, 0]) =
      true := by decide +kernel

/-- H16: an output of no bits makes no pass. -/
theorem test_hout_empty :
    leads
      (exec .hout
        { testAt 8 72 .msgdone with
          cfgdone := true
          ckeyed := true
          lasttype := 48
          twk0 := 1
          twk1 := 0xF000000000000000 })
      (fun t => flags t == (0x3F0643, 0) && t.olen == 0 && t.twk0 == 1) = true := by decide +kernel

/-! ## Witnesses: for each statement with hypotheses, states and operands that meet them -/

/-- The small engine with a script. -/
def testScript (p : Phase) (l : List HostMove) : State := { testSmall p with script := l }

/-- The small engine, faulted, with a script. -/
def testFaulted (l : List HostMove) : State := { testScript .msg l with fault := true, err := 5 }

/-- Every command answers a next state from every state. -/
theorem witness_exec (i : Instr) (s : State) : ∃ t, exec i s = .next t := exec_answers i s

/-- Every word count is met by a runnable state, in every phase. -/
theorem witness_runnable (nr : Word) (p : Phase) :
    Runnable (testAt 4 nr p) ∧ Runnable (testAt 8 nr p) ∧ Runnable (testAt 16 nr p) :=
  ⟨⟨rfl, rfl, .inl rfl⟩, ⟨rfl, rfl, .inr (.inl rfl)⟩, ⟨rfl, rfl, .inr (.inr rfl)⟩⟩

theorem witness_EncodeOfDecode : decode 0x10 = .ok .cinit ∧ decode 0x73F30 = .ok (.twenc 63 true true true) := by decide

theorem witness_IllegalCommandExactly :
    State.reset.fault = false ∧ wordLegal 0x80000 = false ∧ wordLegal 0x7FF30 = true ∧
    leads (exec .cinit State.reset) (fun t => t.fault) = true := by decide

theorem witness_StepRunsDecodedCommand :
    (testScript .idle [.write 0 0x10]).script = .write 0 0x10 :: [] ∧ decode 0x10 = .ok .cinit ∧
    decode 0x80010 = .error .strayBits ∧ (testScript .idle []).fault = false ∧ (testFaulted []).fault = true ∧
    decode (tableWord 32 0x48) = .ok .hout := by decide

theorem witness_StepWithoutMoveChangesNothing : State.reset.script = [] := rfl

/-- The ends of each range of register numbers, from the table of R32. -/
theorem witness_register_ranges :
    regOf 0x0D = .houtlen ∧ regOf 0x0E = .reserved ∧ regOf 0x0F = .reserved ∧ regOf 0x10 = .twk0 ∧ regOf 0x11 = .twk1 ∧
    regOf 0x12 = .reserved ∧ regOf 0x1F = .reserved ∧ regOf 0x20 = .key 0 ∧ regOf 0x2F = .key 15 ∧
    regOf 0x30 = .blk 0 ∧ regOf 0x3F = .blk 15 ∧ regOf 0x40 = .res 0 ∧ regOf 0x4F = .res 15 ∧ regOf 0x50 = .cbw 0 ∧
    regOf 0x53 = .cbw 3 ∧ regOf 0x54 = .reserved ∧ regOf 0x5F = .reserved ∧ regOf 0x60 = .obw 0 ∧
    regOf 0x6F = .obw 15 := by decide

theorem witness_HostReadsReturnRegisters (n : Nat) :
    (testScript .idle [.read n]).script = .read n :: [] ∧ 15 < obufMax / 8 :=
  ⟨rfl, by have := le_obufMax; omega⟩

theorem witness_HostWritesChangeOneRegister :
    (testScript .idle [.write 0x3F 7]).script = .write 0x3F 7 :: [] ∧ (0x3F : Nat) ≠ 0 ∧
    0x40 ∉ [0x03, 0x04, 0x07, 0x08, 0x09, 0x0A, 0x10, 0x11] ∧ ¬(0x20 ≤ 0x40 ∧ 0x40 < 0x40) ∧
    0x1F ∉ [0x03, 0x04, 0x07, 0x08, 0x09, 0x0A, 0x10, 0x11] ∧ ¬(0x20 ≤ 0x1F ∧ 0x1F < 0x40) := by decide

theorem witness_StatusWordLayout :
    (testSmall .idle).phase = .idle ∧ (testSmall .new).phase = .new ∧ (testSmall .keyed).phase = .keyed ∧
    (testSmall .pre).phase = .pre ∧ (testSmall .msg).phase = .msg ∧ (testSmall .msgdone).phase = .msgdone ∧
    (testSmall .done).phase = .done := by decide

theorem witness_HardwareResetZeroesTheState :
    (testFaulted [.hardwareReset]).script = .hardwareReset :: [] := rfl

/-- A configured engine at rest meets the invariant. -/
theorem witness_Inv : Inv (testSmall .idle) where
  err := ⟨fun _ => rfl, fun h => (nomatch h)⟩
  config := ⟨fun h => (nomatch h), fun _ => ⟨.inl rfl, by decide, rfl⟩⟩
  buffer := ⟨rfl, Nat.zero_le _, fun _ _ => rfl⟩
  latch := ⟨rfl, Nat.zero_le _⟩
  sequencer := by constructor <;> decide

theorem witness_StepKeepsSoundness : Inv (testSmall .idle) ∧ step (testSmall .idle) = .next (testSmall .idle) :=
  ⟨witness_Inv, rfl⟩

theorem witness_FaultedEngineIgnoresCommands :
    (testFaulted []).fault = true ∧ (testFaulted [.write 0 0x101]).script = .write 0 0x101 :: [] ∧ (0x101 : Word) ≠ 1 ∧
    (testFaulted [.read 2]).script = .read 2 :: [] ∧ (testFaulted [.write 3 256]).script = .write 3 256 :: [] := by decide

theorem witness_FaultsArePrecise :
    (testScript .msg [.write 0 0x10]).fault = false ∧
    leads (step (testScript .msg [.write 0 0x10])) (fun t => t.fault) = true := by decide

theorem witness_OnlyResetLeavesTheFault :
    (testFaulted [.hardwareReset]).fault = true ∧
    leads (step (testFaulted [.hardwareReset])) (fun t => !t.fault) = true ∧
    leads (step (testFaulted [.write 0 1])) (fun t => !t.fault) = true := by decide

/-- Each cause of SequenceError, and a command without it. -/
theorem witness_SequenceErrorExactly :
    leads (exec .uout State.reset) (fun t => t.fault && t.err == 5) = true ∧
    leads (exec .uinit (testSmall .msg)) (fun t => t.fault && t.err == 5) = true ∧
    leads (exec .cdec (testSmall .idle)) (fun t => t.fault && t.err == 5) = true ∧
    leads (exec .uout (testSmall .msg)) (fun t => !t.fault) = true := by decide +kernel

/-- Each code a command can raise, at the boundary of its condition, and the value next to it that passes. -/
theorem witness_FaultConditionsExactly :
    leads (exec .setcfg { State.reset with bsize := 1025, rounds := 4 }) (fun t => t.fault && t.err == 1) = true ∧
    leads (exec .setcfg { State.reset with bsize := 1024, rounds := 0 }) (fun t => t.fault && t.err == 2) = true ∧
    leads (exec .hinit { testSmall .idle with outlen := 1 }) (fun t => t.fault && t.err == 3) = true ∧
    leads (exec .hkey { testSmall .new with ilen := 33 }) (fun t => t.fault && t.err == 6) = true ∧
    leads (exec .hkey { testSmall .new with ilen := 32 }) (fun t => !t.fault) = true ∧
    leads (exec (.twenc 64 false false false) State.reset) (fun t => t.fault && t.err == 7) = true ∧
    leads (exec (.twenc 63 false false false) State.reset) (fun t => !t.fault) = true ∧
    leads (exec .hinit { testSmall .idle with tree := 1 }) (fun t => t.fault && t.err == 7) = true ∧
    leads (exec .hmblk { testSmall .msg with bpos := 0xFFFFFFFFFFFFFFE0 }) (fun t => t.fault && t.err == 7) = true ∧
    leads (exec .hmblk { testSmall .msg with bpos := 0xFFFFFFFFFFFFFFDF }) (fun t => !t.fault) = true ∧
    leads (exec (.hmfin false) (testSmall .msg)) (fun t => t.fault && t.err == 7) = true ∧
    leads (exec (.hmfin false) { testSmall .msg with ilen := 1, bpos := 0xFFFFFFFFFFFFFFFE }) (fun t => !t.fault) = true := by
  decide +kernel

/-- The largest output length is a capacity fault on every engine whose OBUF_MAX is below 2^61; 1024 bits fit every engine
with blocks of four words (R4, R105). -/
theorem witness_capacity (h : obufMax < 2 ^ 61) :
    obufMax < outputBlockCount (testSmall .idle) 0xFFFFFFFFFFFFFFF8 * blockBytes (testSmall .idle) ∧
    outputBlockCount (testSmall .idle) 1024 * blockBytes (testSmall .idle) ≤ obufMax :=
  ⟨Nat.lt_of_lt_of_le h (by decide), Nat.le_trans (by decide) le_obufMax⟩

theorem witness_NopChangesNothing : (0x100 : Word).extractLsb' 0 8 = 0 ∧ (0x100 : Word) ≠ 0 ∧ State.reset.fault = false := by
  decide

theorem witness_ResetCommandClears :
    (0x101 : Word).extractLsb' 0 8 = 1 ∧ (0x101 : Word) ≠ 1 ∧ State.reset.fault = false ∧ (testFaulted []).fault = true := by
  decide

/-- The largest supported size and round count, and the values beside them. -/
theorem witness_SetcfgSelectsConfiguration :
    State.reset.fault = false ∧ ((1024 : Word) = 256 ∨ (1024 : Word) = 512 ∨ (1024 : Word) = 1024) ∧
    (0xFFFFFFFFFFFFFFFC : Word) ≠ 0 ∧ (0xFFFFFFFFFFFFFFFC : Word).toNat % 4 = 0 ∧
    ((0x100000200 : Word) ≠ 256 ∧ (0x100000200 : Word) ≠ 512 ∧ (0x100000200 : Word) ≠ 1024) ∧
    (0xFFFFFFFFFFFFFFFF : Word).toNat % 4 ≠ 0 := by decide

theorem witness_MixAndUnmixAreInverse : 0 < 1 ∧ 1 < 64 ∧ 0 < 63 ∧ 63 < 64 := by decide

theorem witness_CipherTablesAreSound : 4 ∈ [4, 8, 16] ∧ 8 ∈ [4, 8, 16] ∧ 16 ∈ [4, 8, 16] ∧ 15 < 16 := by decide

/-- A word of each of the four kinds, at NW = 4. -/
theorem witness_SubkeyWordsFollowTheSchedules :
    4 ∈ [4, 8, 16] ∧ ([1, 2, 3, 4, 5] : List Word).length = 4 + 1 ∧ 0 ≤ 4 - 4 ∧ 1 = 4 - 3 ∧ 2 = 4 - 2 ∧ 3 = 4 - 1 ∧
    3 < 4 := by decide

theorem witness_CipherRoundTrip : 4 ∈ [4, 8, 16] ∧ ([1, 2, 3, 4] : List Word).length = 4 := by decide

/-- The states of the low-level commands' clauses: not configured, inside a hash, not keyed, and ready. -/
theorem witness_low_level :
    State.reset.fault = false ∧ State.reset.cfgv = false ∧ ¬OutsideHash (testSmall .new) ∧
    (testSmall .idle).ckeyed = false ∧ Runnable (testSmall .idle) ∧ OutsideHash (testSmall .idle) ∧
    OutsideHash (testSmall .done) ∧ { testSmall .done with ckeyed := true }.ckeyed = true :=
  ⟨rfl, rfl, by simp [OutsideHash, testSmall, testAt], rfl, (witness_runnable 4 .idle).1, .inl rfl, .inr rfl, rfl⟩

theorem witness_TweakWordLayout : tweakEncode true false 63 true 8 = tweakEncode true false 63 true 8 := rfl

theorem witness_TwencBuildsTweak : State.reset.fault = false ∧ (63 : BitVec 8).toNat ≤ 63 ∧ 63 < (64 : BitVec 8).toNat := by
  decide

theorem witness_CfgserSerializes : State.reset.fault = false := rfl

/-- A command in a phase that the table does not list, and one in a phase that it lists. -/
theorem witness_PhaseTableIsFollowed :
    (testSmall .new).fault = false ∧ (testSmall .new).cfgv = true ∧ ¬legalIn .hout .new 0 ∧
    leads (exec .hkey (testSmall .new)) (fun t => !t.fault) = true := by
  refine ⟨rfl, rfl, by simp [legalIn], by decide +kernel⟩

/-- The small engine right after HINIT with OUTLEN = 0 meets the invariant. -/
theorem witness_Inv_new : Inv { testSmall .new with firstpend := true } where
  err := ⟨fun _ => rfl, fun h => (nomatch h)⟩
  config := ⟨fun h => (nomatch h), fun _ => ⟨.inl rfl, by decide, rfl⟩⟩
  buffer := ⟨rfl, Nat.zero_le _, fun _ _ => rfl⟩
  latch := ⟨rfl, Nat.zero_le _⟩
  sequencer := by constructor <;> decide

/-- A command that makes the configuration pass, one that makes another pass, and one that clears a hash away. -/
theorem witness_PassesAscendByTag :
    Inv { testSmall .new with firstpend := true } ∧
    leads (exec .hnon { testSmall .new with firstpend := true }) (fun t => !t.fault && t.cfgdone) = true ∧
    leads (exec .hkey { testSmall .new with firstpend := true }) (fun t => !t.fault) = true ∧
    leads (exec .hmblk { testSmall .new with firstpend := true }) (fun t => !t.fault && t.cfgdone) = true ∧
    leads (exec .reset { testSmall .msg with cfgdone := true }) (fun t => !t.fault && !t.cfgdone) = true :=
  ⟨witness_Inv_new, by decide +kernel, by decide +kernel, by decide +kernel, by decide +kernel⟩

/-- The clauses of HINIT: not configured, a length with a part of a byte, a tree, too long an output, and ready. -/
theorem witness_HinitStartsHash :
    State.reset.cfgv = false ∧ (testSmall .msg).cfgv = true ∧ (7 : Word).toNat % 8 ≠ 0 ∧ (8 : Word).toNat % 8 = 0 ∧
    (0x800000 : BitVec 24) ≠ 0 ∧ Runnable { testSmall .msg with outlen := 1024 } ∧ (1024 : Word).toNat % 8 = 0 ∧
    outputBlockCount (testSmall .msg) 1024 * blockBytes (testSmall .msg) ≤ obufMax :=
  ⟨rfl, rfl, by decide, by decide, by decide, ⟨rfl, rfl, .inl rfl⟩, by decide, Nat.le_trans (by decide) le_obufMax⟩

/-- The clauses of the commands that take one input: a full block is accepted, one byte more is not. -/
theorem witness_inputs :
    { testSmall .new with ilen := 32 }.ilen.toNat ≤ blockBytes (testSmall .new) ∧
    blockBytes (testSmall .new) < { testSmall .new with ilen := 33 }.ilen.toNat ∧ (testSmall .keyed).phase ≠ .new ∧
    Runnable { testSmall .new with ilen := 32 } ∧ Runnable { testSmall .pre with lasttype := 19 } ∧
    (19 : BitVec 6) < 20 ∧ ¬(20 : BitVec 6) < 20 :=
  ⟨by decide, by decide, by decide, ⟨rfl, rfl, .inl rfl⟩, ⟨rfl, rfl, .inl rfl⟩, by decide, by decide⟩

theorem witness_HkeyAbsorbsKey :
    Runnable { testSmall .new with ilen := 32 } ∧ { testSmall .new with ilen := 32 }.phase = .new ∧
    { testSmall .new with ilen := 32 }.ilen.toNat ≤ blockBytes { testSmall .new with ilen := 32 } :=
  ⟨⟨rfl, rfl, .inl rfl⟩, rfl, by decide⟩

theorem witness_OptionalInputsAreAbsorbed :
    ((Instr.hnon, (20 : BitVec 6), (0xD400000000000000 : Word)) ∈
      ([(.hprs, 8, 0xC800000000000000), (.hpk, 12, 0xCC00000000000000), (.hkdf, 16, 0xD000000000000000),
        (.hnon, 20, 0xD400000000000000)] : List (Instr × BitVec 6 × Word))) ∧
    Runnable { testSmall .pre with lasttype := 16, cfgdone := true, ilen := 32 } ∧ (16 : BitVec 6) < 20 ∧
    Runnable (testSmall .keyed) ∧ (testSmall .keyed).phase = .keyed :=
  ⟨by decide, ⟨rfl, rfl, .inl rfl⟩, by decide, ⟨rfl, rfl, .inl rfl⟩, rfl⟩

/-- The last position from which a full block fits, and the first from which it does not. -/
theorem witness_HmblkAbsorbsFullBlock :
    Runnable { testSmall .msg with bpos := 0xFFFFFFFFFFFFFFDF } ∧ TakesMessage (testSmall .msg) ∧
    ¬TakesMessage (testSmall .msgdone) ∧
    { testSmall .msg with bpos := 0xFFFFFFFFFFFFFFDF }.bpos.toNat + blockBytes (testSmall .msg) ≤ 2 ^ 64 - 1 ∧
    2 ^ 64 - 1 < { testSmall .msg with bpos := 0xFFFFFFFFFFFFFFE0 }.bpos.toNat + blockBytes (testSmall .msg) :=
  ⟨⟨rfl, rfl, .inl rfl⟩, .inr (.inr (.inr rfl)), by simp [TakesMessage, testSmall, testAt], by decide, by decide⟩

/-- The empty message, and a last block that ends at the last position. -/
theorem witness_HmfinAbsorbsLastBlock :
    Runnable { testSmall .new with firstpend := true } ∧ { testSmall .new with firstpend := true }.ilen = 0 ∧
    Runnable { testSmall .msg with ilen := 32, bpos := 0xFFFFFFFFFFFFFFDF } ∧ (32 : Word) ≠ 0 ∧
    (32 : Word).toNat ≤ blockBytes (testSmall .msg) ∧ blockBytes (testSmall .msg) < (33 : Word).toNat ∧
    (0xFFFFFFFFFFFFFFDF : Word).toNat + (32 : Word).toNat ≤ 2 ^ 64 - 1 ∧
    2 ^ 64 - 1 < (0xFFFFFFFFFFFFFFE0 : Word).toNat + (32 : Word).toNat :=
  ⟨⟨rfl, rfl, .inl rfl⟩, rfl, ⟨rfl, rfl, .inl rfl⟩, by decide, by decide, by decide, by decide, by decide⟩

/-- An output of no block, of one block and of two. -/
theorem witness_HoutDeliversDigest :
    Runnable { testSmall .msgdone with houtlen := 512 } ∧ { testSmall .msgdone with houtlen := 512 }.phase = .msgdone ∧
    (testSmall .done).phase ≠ .msgdone ∧ ceilDiv (0 : Word).toNat (64 * blockWords (testSmall .msgdone)) = 0 ∧
    ceilDiv (256 : Word).toNat (64 * blockWords (testSmall .msgdone)) = 0 + 1 ∧
    ceilDiv (257 : Word).toNat (64 * blockWords (testSmall .msgdone)) = 1 + 1 :=
  ⟨⟨rfl, rfl, .inl rfl⟩, rfl, by decide, by decide, by decide, by decide⟩

theorem witness_TruncationAndShortfall :
    30 < 2 ^ 64 ∧ ([1, 2] : List Byte).length ≤ 2 ∧ 1 < ([1, 2] : List Byte).length := by decide

theorem witness_EncryptAndDecryptPseudoCommands :
    Runnable (testScript .done (encryptScript 4 [1, 2, 3, 4] 5 6 [7, 8, 9, 10])) ∧
    OutsideHash (testScript .done (encryptScript 4 [1, 2, 3, 4] 5 6 [7, 8, 9, 10])) ∧
    ([1, 2, 3, 4] : List Word).length = blockWords (testSmall .done) ∧
    (testScript .done (decryptScript 4 [1, 2, 3, 4] 5 6 [7, 8, 9, 10])).script =
      decryptScript (blockWords (testSmall .done)) [1, 2, 3, 4] 5 6 [7, 8, 9, 10] :=
  ⟨⟨rfl, rfl, .inl rfl⟩, .inr rfl, by decide, by decide⟩

theorem witness_UbiPseudoCommand :
    Runnable (testScript .idle (ubiScript 4 [1, 2, 3, 4] [([5, 6, 7, 8], 0x20, 9)])) ∧
    OutsideHash (testScript .idle (ubiScript 4 [1, 2, 3, 4] [([5, 6, 7, 8], 0x20, 9)])) ∧
    ([1, 2, 3, 4] : List Word).length = blockWords (testSmall .idle) ∧
    (∀ b ∈ ([([5, 6, 7, 8], 0x20, 9)] : List (List Word × Word × Word)), b.1.length = blockWords (testSmall .idle)) ∧
    (testScript .idle (ubiZeroScript 4 [([5, 6, 7, 8], 0x20, 9)])).script =
      ubiZeroScript (blockWords (testSmall .idle)) [([5, 6, 7, 8], 0x20, 9)] ∧
    (List.replicate 4 (0 : Word)).length = blockWords (testSmall .idle) :=
  ⟨⟨rfl, rfl, .inl rfl⟩, .inl rfl, by decide, by decide, by decide, by decide⟩

/-- The inputs of a hash keyed with the byte "0" and an empty nonce. -/
def testInputs : OptionalInputs := ⟨some [0x30], none, none, none, some []⟩

/-- A keyed hash of an empty message; one bit-padded byte with an output of four blocks; and a key one byte too long. -/
theorem witness_HashPseudoCommandComputesHash :
    Runnable (testScript .msg ((hashScript 4 240 [] testInputs false).getD [])) ∧
    hashScript 4 240 [] testInputs false =
      some (testScript .msg ((hashScript 4 240 [] testInputs false).getD [])).script ∧
    (hashScript 4 1024 [0x80] ⟨none, none, none, none, none⟩ true).isSome = true ∧
    hashScript 4 240 [] { testInputs with key := some (List.replicate 33 0) } false = none ∧
    (240 : Word).toNat % 8 = 0 ∧ ([0x80] : List Byte) ≠ [] ∧
    ceilDiv (1024 : Word).toNat (64 * blockWords (testSmall .pre)) * blockBytes (testSmall .pre) ≤ obufMax :=
  ⟨⟨rfl, rfl, .inl rfl⟩, by decide, by decide, by decide, by decide, by decide, Nat.le_trans (by decide) le_obufMax⟩

/-- A full block and an empty input have an expansion, one byte more has none. -/
theorem witness_HoptIssuesItsCommandOnTheInput :
    LegalBlockWords (testScript .new ((hoptScript 32 .hkey (List.replicate 32 7)).getD [])).cfgnw ∧
    hoptScript (blockBytes (testSmall .new)) .hkey (List.replicate 32 7) =
      some (testScript .new ((hoptScript 32 .hkey (List.replicate 32 7)).getD [])).script ∧
    (hoptScript 32 .hnon []).isSome = true ∧ 32 < (List.replicate 33 (7 : Byte)).length :=
  ⟨.inl rfl, by decide, by decide, by decide⟩

theorem witness_ByteViewsAreInverse :
    15 < 8 * ([1, 2] : List Word).length ∧ ([1, 2] : List Word).length = 2 ∧
    (List.replicate 16 (7 : Byte)).length = 8 * 2 := by decide

theorem witness_ShortBlocksAreZeroPadded :
    (List.replicate 9 (7 : Byte)).length ≤ 8 * 4 ∧ (List.replicate 32 (7 : Byte)).length ≤ 8 * 4 ∧ 3 < 4 ∧ 7 < 8 := by decide

theorem witness_InputBytesBeyondLengthUnread :
    1 ≤ 128 ∧ ∀ k, k < 1 → (bytesOf (bank16 [0xFF41]).toList)[k]? = (bytesOf (bank16 [0x41]).toList)[k]? := by decide

theorem witness_NoCommandWritesHostRegisters (i : Instr) : ∃ t, exec i (testSmall .msg) = .next t :=
  exec_answers i _

/-- A command of each group of the statement. -/
theorem witness_EngineRegistersHaveTheirWriters :
    Instr.uupd ∉ [Instr.reset, .setcfg, .hinit] ∧ Instr.uupd ∉ [Instr.cenc, .cdec, .uout] ∧ Instr.uupd ≠ .hout ∧
    Instr.cfgser ∈ [Instr.nop, .cenc, .cdec, .uinit, .uinitz, .uout, .cfgser] ∧
    Instr.cfgser ∈ [Instr.nop, .cinit, .cenc, .cdec, .uout, .cfgser] ∧
    Instr.uupd ∈ [Instr.nop, .cinit, .cenc, .cdec, .uinit, .uinitz, .uupd, .uout, .cfgser] ∧
    Instr.hout ∈ [Instr.nop, .cinit, .cenc, .cdec, .uinit, .uinitz, .uupd, .uout, .hkey, .hout] ∧
    Instr.uupd ≠ .hmblk ∧ (∀ b, Instr.uupd ≠ .hmfin b) ∧ Instr.uupd ≠ .setcfg := by decide

theorem witness_WordsBeyondBlockAreKept : ConfigSound (testSmall .idle) ∧ Instr.cenc ∉ [Instr.reset, .setcfg, .hinit] :=
  ⟨⟨fun h => (nomatch h), fun _ => ⟨.inl rfl, by decide, rfl⟩⟩, by decide⟩

/-- Two states that differ in word 4 of every bank, at NW = 4. -/
theorem witness_WordsBeyondBlockAreUnread :
    ConfigSound (testSmall .idle) ∧
    SameUsed (blockWords (testSmall .idle)) (testSmall .idle)
      { testSmall .idle with
        key := bank16 [0, 0, 0, 0, 7]
        blk := bank16 [0, 0, 0, 0, 7]
        res := bank16 [0, 0, 0, 0, 7]
        cv := bank16 [0, 0, 0, 0, 7]
        ks := bank17 [0, 0, 0, 0, 0, 7] } :=
  ⟨⟨fun h => (nomatch h), fun _ => ⟨.inl rfl, by decide, rfl⟩⟩,
    ⟨by decide, by decide, by decide, by decide, by decide, by decide⟩⟩

theorem witness_OutlenAndTreeAreLatched : Instr.hout ≠ .hinit ∧ Instr.hout ≠ .cfgser := by decide

theorem witness_HashOwnsCipherAndChaining :
    (testSmall .msg).fault = false ∧ (testSmall .msg).cfgv = true ∧ (testSmall .msg).phase ≠ .idle ∧
    (testSmall .msg).phase ≠ .done ∧ Instr.uupd ∈ [Instr.cinit, .cenc, .cdec, .uinit, .uinitz, .uupd] := by decide

end Sys2Proof.Tests
end

section
/-! PROOF. Facts about the model's shared operations that the proofs below cite: the checks that have passed when a command
has its effect, the fields a hash step can write, and the values of the derived sizes. -/

namespace Sys2Proof.Machine

/-! ## The checks that have passed when a command has its effect -/

/-- No fault is raised exactly when the first check does not hold and none of the others raises one (R139). -/
theorem firstRaised_cons_eq_none {b : Bool} {k : FaultKind} {rest : List (Bool × FaultKind)} :
    firstRaised ((b, k) :: rest) = none ↔ b = false ∧ firstRaised rest = none := by
  cases b with
  | false => exact ⟨fun h => ⟨rfl, h⟩, And.right⟩
  | true => exact ⟨fun h => (nomatch h), fun h => absurd h.1 Bool.noConfusion⟩

theorem firstRaised_singleton_eq_none {b : Bool} {k : FaultKind} : firstRaised [(b, k)] = none ↔ b = false :=
  Iff.trans firstRaised_cons_eq_none (and_iff_left rfl)

theorem blockSizeSupported_iff {b : Word} : blockSizeSupported b = true ↔ b = 256 ∨ b = 512 ∨ b = 1024 := by
  rw [blockSizeSupported, Bool.or_eq_true, Bool.or_eq_true, beq_iff_eq, beq_iff_eq, beq_iff_eq, or_assoc]

theorem roundsSupported_iff {r : Word} : roundsSupported r = true ↔ r ≠ 0 ∧ r.toNat % 4 = 0 := by
  rw [roundsSupported, Bool.and_eq_true, bne_iff_ne, beq_iff_eq]

theorem outputTooLarge_eq_false {s : State} :
    outputTooLarge s = false ↔ outputBlockCount s s.outlen * blockBytes s ≤ obufMax :=
  Bool.eq_false_iff.trans ((exceedsObuf_iff _).not.trans Nat.not_lt)

theorem inputTooLong_eq_false {s : State} : inputTooLong s = false ↔ s.ilen.toNat ≤ blockBytes s :=
  decide_eq_false_iff_not.trans Nat.not_lt

theorem positionOverflow_eq_false {s : State} {n : Nat} :
    positionOverflow s n = false ↔ s.bpos.toNat + n ≤ 2 ^ 64 - 1 :=
  decide_eq_false_iff_not.trans Nat.not_lt

theorem setcfg_runs_iff {s : State} : firstRaised (checksOf .setcfg s) = none ↔
    (s.bsize = 256 ∨ s.bsize = 512 ∨ s.bsize = 1024) ∧ s.rounds ≠ 0 ∧ s.rounds.toNat % 4 = 0 := by
  change firstRaised [_, _] = none ↔ _
  rw [firstRaised_cons_eq_none, firstRaised_singleton_eq_none, Bool.not_eq_false', Bool.not_eq_false',
    blockSizeSupported_iff, roundsSupported_iff]

theorem hinit_runs_iff {s : State} : firstRaised (checksOf .hinit s) = none ↔
    s.cfgv = true ∧ s.outlen.toNat % 8 = 0 ∧ s.tree = 0 ∧ outputBlockCount s s.outlen * blockBytes s ≤ obufMax := by
  change firstRaised [_, _, _, _] = none ↔ _
  rw [firstRaised_cons_eq_none, firstRaised_cons_eq_none, firstRaised_cons_eq_none, firstRaised_singleton_eq_none,
    Bool.not_eq_false', bne_eq_false_iff_eq, bne_eq_false_iff_eq, outputTooLarge_eq_false]

theorem hkey_runs_iff {s : State} : firstRaised (checksOf .hkey s) = none ↔
    s.cfgv = true ∧ s.phase = .new ∧ s.ilen.toNat ≤ blockBytes s := by
  change firstRaised [_, _, _] = none ↔ _
  rw [firstRaised_cons_eq_none, firstRaised_cons_eq_none, firstRaised_singleton_eq_none, Bool.not_eq_false',
    Bool.not_eq_false', keyPhase_iff, inputTooLong_eq_false]

/-- The checks that HPRS, HPK, HKDF and HNON share, each with its tag (R107 to R110). -/
theorem optional_runs_iff {tag : BitVec 6} {s : State} :
    firstRaised [(!s.cfgv, .sequenceError), (!optionalPhase tag s, .sequenceError), (inputTooLong s, .inputTooLong)] =
        none ↔
      s.cfgv = true ∧ (s.phase = .new ∨ s.phase = .keyed ∨ (s.phase = .pre ∧ s.lasttype < tag)) ∧
        s.ilen.toNat ≤ blockBytes s := by
  rw [firstRaised_cons_eq_none, firstRaised_cons_eq_none, firstRaised_singleton_eq_none, Bool.not_eq_false',
    Bool.not_eq_false', optionalPhase_iff, inputTooLong_eq_false]

theorem hmblk_runs_iff {s : State} : firstRaised (checksOf .hmblk s) = none ↔
    s.cfgv = true ∧ TakesMessage s ∧ s.bpos.toNat + blockBytes s ≤ 2 ^ 64 - 1 := by
  change firstRaised [_, _, _] = none ↔ _ ∧ (_ ∨ _ ∨ _ ∨ _) ∧ _
  rw [firstRaised_cons_eq_none, firstRaised_cons_eq_none, firstRaised_singleton_eq_none, Bool.not_eq_false',
    Bool.not_eq_false', messagePhase_iff, positionOverflow_eq_false]

theorem hmfin_runs_iff {b : Bool} {s : State} : firstRaised (checksOf (.hmfin b) s) = none ↔
    s.cfgv = true ∧ TakesMessage s ∧ s.ilen.toNat ≤ blockBytes s ∧ emptyLastBlock b s = false ∧
      s.bpos.toNat + s.ilen.toNat ≤ 2 ^ 64 - 1 := by
  change firstRaised [_, _, _, _, _] = none ↔ _ ∧ (_ ∨ _ ∨ _ ∨ _) ∧ _
  rw [firstRaised_cons_eq_none, firstRaised_cons_eq_none, firstRaised_cons_eq_none, firstRaised_cons_eq_none,
    firstRaised_singleton_eq_none, Bool.not_eq_false', Bool.not_eq_false', messagePhase_iff, inputTooLong_eq_false,
    positionOverflow_eq_false]

theorem hout_runs_iff {s : State} : firstRaised (checksOf .hout s) = none ↔ s.cfgv = true ∧ s.phase = .msgdone := by
  change firstRaised [_, _] = none ↔ _
  rw [firstRaised_cons_eq_none, firstRaised_singleton_eq_none, Bool.not_eq_false', Bool.not_eq_false', outputPhase_iff]

/-! ## Derived sizes -/

/-- NW of a configured engine is a legal word count (R26). -/
theorem ConfigSound.legalCount {s : State} (h : ConfigSound s) (hc : s.cfgv = true) : LegalCount (blockWords s) := by
  obtain ⟨hn | hn | hn, -⟩ := h.legalAfter hc
  · exact .inl (congrArg BitVec.toNat hn)
  · exact .inr (.inl (congrArg BitVec.toNat hn))
  · exact .inr (.inr (congrArg BitVec.toNat hn))

theorem blockBytes_eq (s : State) : blockBytes s = 8 * blockWords s := rfl

/-- An output of no bits has no blocks. -/
theorem outputBlockCount_zero (s : State) : outputBlockCount s 0 = 0 := by
  change (0 + 64 * blockWords s - 1) / (64 * blockWords s) = 0
  exact Nat.div_eq_zero_iff.mpr (by omega)

/-- The output blocks cover a whole number of bytes (R113). -/
theorem le_outputBlockCount {s : State} (h : 0 < blockWords s) {bits : Word} (h8 : bits.toNat % 8 = 0) :
    bits.toNat / 8 ≤ outputBlockCount s bits * blockBytes s := by
  have hlt : bits.toNat + 64 * blockWords s - 1 < 64 * blockWords s * (outputBlockCount s bits + 1) :=
    Nat.lt_mul_div_succ _ (by omega)
  have he : 64 * blockWords s * (outputBlockCount s bits + 1) =
      8 * (outputBlockCount s bits * blockBytes s) + 64 * blockWords s := by
    rw [blockBytes_eq]
    ring
  omega

/-! ## What a hash step writes -/

theorem ensureConfig_cfgdone (s : State) : (ensureConfig s).cfgdone = true := by
  rcases ensureConfig_cases s with ⟨hc, h⟩ | ⟨-, h⟩ <;> rw [h]
  · exact hc
  · rfl

theorem ensureConfig_firstpend (s : State) : (ensureConfig s).firstpend = s.firstpend := by
  rcases ensureConfig_cases s with ⟨-, h⟩ | ⟨-, h⟩ <;> rw [h]
  rfl

theorem ensureConfig_bpos (s : State) : (ensureConfig s).bpos = s.bpos := by
  rcases ensureConfig_cases s with ⟨-, h⟩ | ⟨-, h⟩ <;> rw [h]
  rfl

theorem ensureConfig_ilen (s : State) : (ensureConfig s).ilen = s.ilen := by
  rcases ensureConfig_cases s with ⟨-, h⟩ | ⟨-, h⟩ <;> rw [h]
  rfl

/-- The configuration pass leaves the configuration. -/
theorem ensureConfig_blockWords (s : State) : blockWords (ensureConfig s) = blockWords s := by
  rcases ensureConfig_cases s with ⟨-, h⟩ | ⟨-, h⟩ <;> rw [h]
  rfl

/-- Only what a hash step short of its output writes may differ: the tweak, the schedules, the chaining value, the
configuration block, and the sequencer's own fields. -/
def OnlyHashFields (s t : State) : Prop :=
  { t with
    twk0 := s.twk0, twk1 := s.twk1, ks := s.ks, ts := s.ts, cv := s.cv, cb := s.cb, ckeyed := s.ckeyed, bpos := s.bpos,
    firstpend := s.firstpend, cfgdone := s.cfgdone, phase := s.phase, lasttype := s.lasttype } = s

/-- A field that a hash step does not write is kept. -/
theorem OnlyHashFields.keeps {s t : State} (e : OnlyHashFields s t) {α : Type} (f : State → α)
    (hf : ∀ u v : State, f { u with
      twk0 := v.twk0, twk1 := v.twk1, ks := v.ks, ts := v.ts, cv := v.cv, cb := v.cb, ckeyed := v.ckeyed, bpos := v.bpos,
      firstpend := v.firstpend, cfgdone := v.cfgdone, phase := v.phase, lasttype := v.lasttype } = f u) : f t = f s :=
  (hf t s).symm.trans (congrArg f e)

theorem OnlyHashFields.hostSideKept {s t : State} (e : OnlyHashFields s t) : HostSideKept s t where
  key := e.keeps State.key fun _ _ => rfl
  blk := e.keeps State.blk fun _ _ => rfl
  bsize := e.keeps State.bsize fun _ _ => rfl
  rounds := e.keeps State.rounds fun _ _ => rfl
  pos := e.keeps State.pos fun _ _ => rfl
  outlen := e.keeps State.outlen fun _ _ => rfl
  tree := e.keeps State.tree fun _ _ => rfl
  ilen := e.keeps State.ilen fun _ _ => rfl
  script := e.keeps State.script fun _ _ => rfl
  reads := e.keeps State.reads fun _ _ => rfl

theorem OnlyHashFields.configurationKept {s t : State} (e : OnlyHashFields s t) : ConfigurationKept s t where
  cfgv := e.keeps State.cfgv fun _ _ => rfl
  cfgnw := e.keeps State.cfgnw fun _ _ => rfl
  cfgnr := e.keeps State.cfgnr fun _ _ => rfl

theorem OnlyHashFields.digestKept {s t : State} (e : OnlyHashFields s t) :
    t.olen = s.olen ∧ t.obuf = s.obuf ∧ t.olmShort = s.olmShort ∧ t.olmTrunc = s.olmTrunc :=
  ⟨e.keeps State.olen fun _ _ => rfl, e.keeps State.obuf fun _ _ => rfl, e.keeps State.olmShort fun _ _ => rfl,
    e.keeps State.olmTrunc fun _ _ => rfl⟩

theorem hkeyEffect_onlyHashFields (s : State) : OnlyHashFields s (hkeyEffect s) := rfl

theorem optionalEffect_onlyHashFields (tag : BitVec 6) (s : State) : OnlyHashFields s (optionalEffect tag s) := by
  obtain ⟨cb, t0, t1, ks, ts, ck, cv, cd, ph, lt, e⟩ := optionalEffect_frame tag s
  rw [e]
  rfl

theorem messageBlock_onlyHashFields (final bitpad : Bool) (n : Nat) (m : List Word) (after : Phase) (s : State) :
    OnlyHashFields s (messageBlock final bitpad n m after s) := by
  obtain ⟨cb, t0, t1, ks, ts, ck, cv, cd, ph, lt, bp, fp, e⟩ := messageBlock_frame final bitpad n m after s
  rw [e]
  rfl

/-- The output blocks keep CKEYED set (R102). -/
theorem outputBlocks_ckeyed {s : State} (h : s.ckeyed = true) (n : Nat) : ∀ k, (outputBlocks n k s).1.ckeyed = true
  | 0 => h
  | _ + 1 => rfl

/-- The output blocks leave PHASE (R113). -/
theorem outputBlocks_phase (n k : Nat) (s : State) : (outputBlocks n k s).1.phase = s.phase := by
  obtain ⟨t0, t1, ks, ts, ck, cv, e⟩ := outputBlocks_frame n s k
  rw [e]

/-- The output blocks leave the configuration. -/
theorem outputBlocks_blockWords (n k : Nat) (s : State) : blockWords (outputBlocks n k s).1 = blockWords s := by
  obtain ⟨t0, t1, ks, ts, ck, cv, e⟩ := outputBlocks_frame n s k
  rw [e]
  rfl

/-! ## The bytes HOUT generates -/

/-- Every output block gives the bytes of a block (R113). -/
theorem length_hashOutput_bytes {nw : Nat} (h : LegalCount nw) (nr n : Nat) {g : List Word} (hg : g.length = nw) :
    ∀ k, (hashOutput nw nr n k g).2.length = k * (8 * nw)
  | 0 => (Nat.zero_mul _).symm
  | k + 1 => by
    change ((hashOutput nw nr n k g).2 ++ bytesOf (hashOutput nw nr n (k + 1) g).1).length = _
    rw [List.length_append, length_hashOutput_bytes h nr n hg k, length_bytesOf, length_hashOutput h nr n hg (k + 1),
      Nat.add_mul, Nat.one_mul]

/-- HOUT generates a whole number of blocks (R113). -/
theorem length_outputBlocks {s : State} (h : LegalCount (blockWords s)) (n k : Nat) :
    (outputBlocks n k s).2.length = k * blockBytes s := by
  rw [(outputBlocks_eq h n k).1, length_hashOutput_bytes h _ _ (length_cvWords h), blockBytes_eq]

/-- OLM_SHORT stays where enough bytes were generated (R114). -/
theorem olmShortAfter_of_le {generated want : Nat} (h : want ≤ generated) (old : Bool) :
    olmShortAfter generated want old = old := by
  change (old || decide (generated < want)) = old
  rw [decide_eq_false (Nat.not_lt.mpr h), Bool.or_false]

/-! ## A CMD write -/

/-- A CMD write is the command its value decodes to, or the fault of a value that is none (R22, R136). -/
theorem writeCmd_cases (w : Word) (s : State) :
    (∃ i, decode w = .ok i ∧ writeCmd w s = exec i s) ∨
      (∃ e, decode w = .error e ∧ writeCmd w s = command [(true, .illegalCommand)] id s) := by
  rw [writeCmd]
  cases decode w with
  | error e => exact .inr ⟨e, rfl, rfl⟩
  | ok i => exact .inl ⟨i, rfl, rfl⟩

/-- A step with no move left changes nothing (R161). -/
theorem step_nil {s : State} (h : s.script = []) : step s = .next s := by
  cases s
  cases h
  rfl

/-- A step that resets the hardware (R150, R163). -/
theorem step_hardwareReset {s : State} {rest : List HostMove} (h : s.script = .hardwareReset :: rest) :
    step s = .next (hardwareReset { s with script := rest }) := by
  cases s
  cases h
  rfl

end Sys2Proof.Machine
end

section
/-! PROOF. The engine's invariant (O12, O13). A move keeps the fault's, the configuration's, the buffer's and the latch's
facts because it keeps the fields they speak of, or because its checks passed; the sequencer's facts are shown once for each
command that moves PHASE. -/

namespace Sys2Proof.Machine

/-! ## Facts that hold because the fields they speak of are kept -/

theorem ErrSound.congr {s t : State} (h : ErrSound s) (hf : t.fault = s.fault) (he : t.err = s.err) : ErrSound t :=
  ⟨by rw [hf, he]; exact h.clearWhenUnfaulted, by rw [hf, he]; exact h.codeWhenFaulted⟩

theorem ConfigSound.congr {s t : State} (h : ConfigSound s) (hc : ConfigurationKept s t) : ConfigSound t :=
  ⟨by rw [hc.cfgv, hc.cfgnw, hc.cfgnr]; exact h.zeroBefore, by rw [hc.cfgv, hc.cfgnw, hc.cfgnr]; exact h.legalAfter⟩

theorem BufferSound.congr {s t : State} (h : BufferSound s) (hb : t.obuf = s.obuf) (ho : t.olen = s.olen) :
    BufferSound t :=
  ⟨by rw [hb]; exact h.canonical, by rw [ho]; exact h.fits, by rw [hb, ho]; exact h.zeroBeyond⟩

theorem LatchSound.congr {s t : State} (h : LatchSound s) (hn : t.cfgnw = s.cfgnw) (hl : t.houtlen = s.houtlen) :
    LatchSound t := by
  obtain ⟨h8, hfit⟩ := h
  cases s
  cases t
  cases hn
  cases hl
  exact ⟨h8, hfit⟩

/-- After a hash step the sequencer's facts are all there is to show. -/
theorem Inv.of_onlyHashFields {s t : State} (h : Inv s) (e : OnlyHashFields s t) (hs : SequencerSound t) : Inv t where
  err := h.err.congr (e.keeps State.fault fun _ _ => rfl) (e.keeps State.err fun _ _ => rfl)
  config := h.config.congr e.configurationKept
  buffer := h.buffer.congr (e.keeps State.obuf fun _ _ => rfl) (e.keeps State.olen fun _ _ => rfl)
  latch := h.latch.congr (e.keeps State.cfgnw fun _ _ => rfl) (e.keeps State.houtlen fun _ _ => rfl)
  sequencer := hs

/-- The invariant does not speak of the banks, the host's registers, the tweak, the schedules and the host's side of the run,
and CKEYED may be set at any time. -/
theorem Inv.of_banks {s t : State} (h : Inv s) (hk : s.ckeyed = true → t.ckeyed = true)
    (e : { t with
      key := s.key, twk0 := s.twk0, twk1 := s.twk1, blk := s.blk, res := s.res, ks := s.ks, ts := s.ts, cv := s.cv,
      cb := s.cb, bsize := s.bsize, rounds := s.rounds, pos := s.pos, outlen := s.outlen, tree := s.tree,
      ilen := s.ilen, ckeyed := s.ckeyed, script := s.script, reads := s.reads } = s) : Inv t := by
  cases s
  cases t
  cases e
  obtain ⟨⟨e1, e2⟩, ⟨c1, c2⟩, ⟨b1, b2, b3⟩, ⟨l1, l2⟩, ⟨s1, s2, s3, s4, s5, s6, s7, s8, s9, s10, s11⟩⟩ := h
  exact ⟨⟨e1, e2⟩, ⟨c1, c2⟩, ⟨b1, b2, b3⟩, ⟨l1, l2⟩,
    ⟨s1, s2, s3, s4, fun hi hn => hk (s5 hi hn), s6, s7, s8, s9, s10, s11⟩⟩

/-! ## The sequencer's facts after a command that moves PHASE -/

/-- What a step of a hash leaves: the sequencer's fields of the new state, the rest being that of a sound state in an earlier
phase of the same hash. -/
theorem SequencerSound.advance {s t : State} (h : SequencerSound s) (hc : s.cfgv = true) (hd : s.phase ≠ .done)
    (e : OnlyHashFields s t) (hk : t.ckeyed = true) (hi : t.phase ≠ .idle)
    (configPass : t.cfgdone = configuredPhase t.phase) (firstPending : t.firstpend = beforeMessage t.phase)
    (lastTag : t.lasttype ∈ phaseTags t.phase) (positionZero : beforeMessage t.phase = true → t.bpos = 0)
    (positionOnBlock : t.phase = .msg → t.bpos.toNat % blockBytes t = 0 ∧ 0 < t.bpos.toNat) : SequencerSound t where
  configured _ := (e.keeps State.cfgv fun _ _ => rfl).trans hc
  configPass := configPass
  firstPending := firstPending
  lastTag := lastTag
  keyed _ _ := hk
  positionZero hp := positionZero (hp.resolve_left hi)
  positionOnBlock := positionOnBlock
  neverShort := (e.keeps State.olmShort fun _ _ => rfl).trans h.neverShort
  truncatedOnlyDone hp := absurd (h.truncatedOnlyDone ((e.keeps State.olmTrunc fun _ _ => rfl).symm.trans hp)) hd
  outputOnlyDone _ := (e.keeps State.olen fun _ _ => rfl).trans (h.outputOnlyDone hd)
  latchOnlyHash hp := absurd hp hi

/-- HKEY keeps the invariant (R106). -/
theorem inv_hkey {s : State} (h : Inv s) (hr : firstRaised (checksOf .hkey s) = none) : Inv (hkeyEffect s) := by
  obtain ⟨hc, hp, -⟩ := Iff.mp hkey_runs_iff hr
  have hs := h.sequencer
  have e := hkeyEffect_onlyHashFields s
  refine h.of_onlyHashFields e (hs.advance hc (by rw [hp]; decide) e rfl nofun ?_ ?_ ?_ ?_ nofun)
  · exact hs.configPass.trans (by rw [hp]; rfl)
  · exact hs.firstPending.trans (by rw [hp]; rfl)
  · exact List.mem_singleton.mpr rfl
  · exact fun _ => hs.positionZero (.inr (by rw [hp]; rfl))

/-- The commands HPRS, HPK, HKDF and HNON keep the invariant (R107 to R110). -/
theorem inv_optional {tag : BitVec 6} (htag : tag ∈ phaseTags .pre) {s : State} (h : Inv s) (hc : s.cfgv = true)
    (hp : s.phase = .new ∨ s.phase = .keyed ∨ (s.phase = .pre ∧ s.lasttype < tag)) : Inv (optionalEffect tag s) := by
  have hs := h.sequencer
  have hb : beforeMessage s.phase = true := by rcases hp with hp | hp | ⟨hp, -⟩ <;> rw [hp] <;> rfl
  have hd : s.phase ≠ .done := by rcases hp with hp | hp | ⟨hp, -⟩ <;> rw [hp] <;> decide
  have e := optionalEffect_onlyHashFields tag s
  refine h.of_onlyHashFields e (hs.advance hc hd e rfl nofun (ensureConfig_cfgdone s) ?_ htag ?_ nofun)
  · exact (ensureConfig_firstpend s).trans (hs.firstPending.trans hb)
  · exact fun _ => (ensureConfig_bpos s).trans (hs.positionZero (.inr hb))

/-- A message block keeps the invariant, where it leaves BPOS on a block or ends the message (R111, R112). -/
theorem inv_messageBlock {s : State} (h : Inv s) (hc : s.cfgv = true) (hp : TakesMessage s) (final bitpad : Bool) (n : Nat)
    (m : List Word) {after : Phase} (ha : after = .msg ∨ after = .msgdone)
    (hn : after = .msg → (s.bpos + BitVec.ofNat 64 n).toNat % blockBytes s = 0 ∧ 0 < (s.bpos + BitVec.ofNat 64 n).toNat) :
    Inv (messageBlock final bitpad n m after s) := by
  have hd : s.phase ≠ .done := by rcases hp with hp | hp | hp | hp <;> rw [hp] <;> decide
  have e := messageBlock_onlyHashFields final bitpad n m after s
  have hcd : (messageBlock final bitpad n m after s).cfgdone = true := ensureConfig_cfgdone s
  have hph : (messageBlock final bitpad n m after s).phase = after := rfl
  have hbp : (messageBlock final bitpad n m after s).bpos = s.bpos + BitVec.ofNat 64 n :=
    congrArg (· + BitVec.ofNat 64 n) (ensureConfig_bpos s)
  have hnb : blockBytes (messageBlock final bitpad n m after s) = blockBytes s := e.keeps blockBytes fun _ _ => rfl
  refine h.of_onlyHashFields e (h.sequencer.advance hc hd e rfl ?_ ?_ ?_ ?_ ?_ ?_)
  · rw [hph]; rcases ha with rfl | rfl <;> decide
  · rw [hcd, hph]; rcases ha with rfl | rfl <;> rfl
  · rw [hph]; rcases ha with rfl | rfl <;> rfl
  · rw [hph]; rcases ha with rfl | rfl <;> exact List.mem_singleton.mpr rfl
  · rw [hph]; rcases ha with rfl | rfl <;> exact nofun
  · rw [hph, hbp, hnb]; exact hn

/-- HMBLK keeps the invariant: BPOS moves from one block's end to the next one's (R111). -/
theorem inv_hmblk {s : State} (h : Inv s) (hr : firstRaised (checksOf .hmblk s) = none) : Inv (hmblkEffect s) := by
  obtain ⟨hc, hp, ho⟩ := Iff.mp hmblk_runs_iff hr
  have hs := h.sequencer
  have hnw := legalCount_pos (h.config.legalCount hc)
  have hzero : beforeMessage s.phase = true → s.bpos.toNat % blockBytes s = 0 := fun hb => by
    rw [hs.positionZero (.inr hb)]
    exact Nat.zero_mod _
  have hmod : s.bpos.toNat % blockBytes s = 0 := by
    rcases hp with hp | hp | hp | hp
    · exact hzero (by rw [hp]; rfl)
    · exact hzero (by rw [hp]; rfl)
    · exact hzero (by rw [hp]; rfl)
    · exact (hs.positionOnBlock hp).1
  have hadd : (s.bpos + BitVec.ofNat 64 (blockBytes s)).toNat = s.bpos.toNat + blockBytes s := by
    rw [BitVec.toNat_add, BitVec.toNat_ofNat, Nat.add_mod_mod, Nat.mod_eq_of_lt (by omega)]
  refine inv_messageBlock h hc hp _ _ _ _ (.inl rfl) fun _ => ?_
  rw [hadd]
  exact ⟨(Nat.add_mod_right _ _).trans hmod, by rw [blockBytes_eq]; omega⟩

/-- HMFIN keeps the invariant (R112). -/
theorem inv_hmfin {b : Bool} {s : State} (h : Inv s) (hr : firstRaised (checksOf (.hmfin b) s) = none) :
    Inv (hmfinEffect b s) := by
  obtain ⟨hc, hp, -⟩ := Iff.mp hmfin_runs_iff hr
  exact inv_messageBlock h hc hp _ _ _ _ (.inr rfl) nofun

/-! ## Clear, SETCFG and HINIT -/

/-- The buffer after Clear() (R121). -/
theorem bufferSound_of_empty {s : State} (hb : s.obuf = []) (ho : s.olen = 0) : BufferSound s :=
  ⟨by rw [hb]; rfl, by rw [ho]; exact Nat.zero_le _, fun k _ => by rw [hb]; rfl⟩

/-- A cleared engine meets the invariant, whatever its configuration, if its fault and configuration are sound (R121). -/
theorem inv_clear {s : State} (he : ErrSound s) (hc : ConfigSound s) : Inv (clear s) where
  err := he.congr rfl rfl
  config := hc.congr ⟨rfl, rfl, rfl⟩
  buffer := bufferSound_of_empty rfl rfl
  latch := ⟨rfl, by rw [clear_houtlen, outputBlockCount_zero, Nat.zero_mul]; exact Nat.zero_le _⟩
  sequencer :=
    { configured hp := absurd rfl hp
      configPass := rfl
      firstPending := rfl
      lastTag := List.mem_singleton.mpr rfl
      keyed hp := absurd rfl hp
      positionZero _ := rfl
      positionOnBlock := nofun
      neverShort := rfl
      truncatedOnlyDone := nofun
      outputOnlyDone _ := rfl
      latchOnlyHash _ := rfl }

/-- RESET leaves an engine that meets the invariant (R121). -/
theorem inv_reset {s : State} (h : Inv s) : Inv (faultReturn (clear s)) :=
  inv_clear (s := faultReturn s) ⟨fun _ => rfl, nofun⟩ (h.config.congr ⟨rfl, rfl, rfl⟩)

/-- SETCFG keeps the invariant: the configuration it writes is a legal one (R122). -/
theorem inv_setcfg {s : State} (h : Inv s) (hr : firstRaised (checksOf .setcfg s) = none) : Inv (setcfgEffect s) := by
  obtain ⟨hb, h0, h4⟩ := Iff.mp setcfg_runs_iff hr
  have hnw : LegalBlockWords (s.bsize / 64) := by
    rcases hb with hb | hb | hb <;> rw [hb]
    · exact .inl rfl
    · exact .inr (.inl rfl)
    · exact .inr (.inr rfl)
  exact inv_clear (s := setConfiguration (s.bsize / 64) s.rounds s) (h.err.congr rfl rfl) ⟨nofun, fun _ => ⟨hnw, h0, h4⟩⟩

/-- HINIT keeps the invariant: the length it latches passed its checks (R105). -/
theorem inv_hinit {s : State} (h : Inv s) (hr : firstRaised (checksOf .hinit s) = none) : Inv (hinitEffect s) := by
  obtain ⟨hc, h8, -, hfit⟩ := Iff.mp hinit_runs_iff hr
  exact
    { err := h.err.congr rfl rfl
      config := h.config.congr ⟨rfl, rfl, rfl⟩
      buffer := bufferSound_of_empty rfl rfl
      latch := ⟨h8, hfit⟩
      sequencer :=
        { configured _ := hc
          configPass := rfl
          firstPending := rfl
          lastTag := List.mem_singleton.mpr rfl
          keyed _ hp := absurd rfl hp
          positionZero _ := rfl
          positionOnBlock := nofun
          neverShort := rfl
          truncatedOnlyDone := nofun
          outputOnlyDone _ := rfl
          latchOnlyHash := nofun } }

/-! ## HOUT -/

/-- Delivering no more bytes than were generated and fit leaves a sound buffer (R114). -/
theorem bufferSound_deliver {want : Nat} {raw : List Byte} (hg : want ≤ raw.length) (h64 : want < 2 ^ 64)
    (hfit : want ≤ obufMax) (s : State) : BufferSound (deliver want raw s) := by
  have hlen : (raw.take want).length = want := List.length_take_of_le hg
  have ho : (deliver want raw s).olen.toNat = want := by
    rw [deliver_olen, hlen, BitVec.toNat_ofNat, Nat.mod_eq_of_lt h64]
  exact ⟨memWriteBytes_wf _ _ memory_empty_wf, ho.trans_le hfit, fun k hk => by
    rw [deliver_obuf, memRead_stored, List.getD_eq_default _ _ (by omega)]⟩

/-- The output blocks keep the invariant: they write the chaining value, the schedules and the tweak only (R102, R113). -/
theorem inv_outputBlocks {s : State} (h : Inv s) (n k : Nat) : Inv (outputBlocks n k s).1 := by
  have hk := fun hc => outputBlocks_ckeyed (s := s) hc n k
  obtain ⟨t0, t1, ks, ts, ck, cv, e⟩ := outputBlocks_frame n s k
  rw [e] at hk ⊢
  exact h.of_banks hk rfl

/-- Delivering a digest that was generated in full and fits keeps the invariant, and ends the hash (R114). -/
theorem inv_deliver {s : State} (h : Inv s) (hp : s.phase = .msgdone) {want : Nat} {raw : List Byte}
    (hg : want ≤ raw.length) (h64 : want < 2 ^ 64) (hfit : want ≤ obufMax) :
    Inv (setLasttype tagOut (setPhase .done (deliver want raw s))) where
  err := h.err.congr rfl rfl
  config := h.config.congr ⟨rfl, rfl, rfl⟩
  buffer := (bufferSound_deliver hg h64 hfit s).congr rfl rfl
  latch := h.latch.congr rfl rfl
  sequencer :=
    { configured _ := h.sequencer.configured (by rw [hp]; decide)
      configPass := h.sequencer.configPass.trans (by rw [hp]; rfl)
      firstPending := h.sequencer.firstPending.trans (by rw [hp]; rfl)
      lastTag := List.mem_singleton.mpr rfl
      keyed _ _ := h.sequencer.keyed (by rw [hp]; decide) (by rw [hp]; decide)
      positionZero := nofun
      positionOnBlock := nofun
      neverShort := (olmShortAfter_of_le hg _).trans h.sequencer.neverShort
      truncatedOnlyDone _ := rfl
      outputOnlyDone hm := absurd rfl hm
      latchOnlyHash := nofun }

/-- HOUT keeps the invariant: the blocks it generates cover the latched length, which fits the buffer (R113, R114). -/
theorem inv_hout {s : State} (h : Inv s) (hr : firstRaised (checksOf .hout s) = none) : Inv (houtEffect s) := by
  obtain ⟨hc, hp⟩ := Iff.mp hout_runs_iff hr
  have hnw := h.config.legalCount hc
  have hcover := le_outputBlockCount (legalCount_pos hnw) h.latch.wholeBytes
  exact inv_deliver (inv_outputBlocks h _ _) ((outputBlocks_phase _ _ _).trans hp)
    (hcover.trans_eq (length_outputBlocks hnw _ _).symm) (Nat.lt_of_le_of_lt (Nat.div_le_self _ _) s.houtlen.isLt)
    (hcover.trans h.latch.capacity)

/-! ## Every move -/

theorem faultCode_range (k : FaultKind) : 1 ≤ (faultCode k).toNat ∧ (faultCode k).toNat ≤ 7 := by cases k <;> decide

/-- A fault keeps the invariant: its code is one of 1 to 7 (R132, R133). -/
theorem inv_raise {s : State} (h : Inv s) (k : FaultKind) : Inv (raise k s) where
  err := ⟨nofun, fun _ => faultCode_range k⟩
  config := h.config.congr ⟨rfl, rfl, rfl⟩
  buffer := h.buffer.congr rfl rfl
  latch := h.latch.congr rfl rfl
  sequencer := by
    obtain ⟨s1, s2, s3, s4, s5, s6, s7, s8, s9, s10, s11⟩ := h.sequencer
    exact ⟨s1, s2, s3, s4, s5, s6, s7, s8, s9, s10, s11⟩

/-- The effect of every command keeps the invariant, once its checks have passed. -/
theorem inv_effectOf {i : Instr} {s : State} (h : Inv s) (hr : firstRaised (checksOf i s) = none) :
    Inv (effectOf i s) := by
  cases i with
  | nop => exact h
  | reset => exact inv_reset h
  | setcfg => exact inv_setcfg h hr
  | hinit => exact inv_hinit h hr
  | hkey => exact inv_hkey h hr
  | hprs | hpk | hkdf | hnon =>
    obtain ⟨hc, hp, -⟩ := Iff.mp optional_runs_iff hr
    exact inv_optional (by decide) h hc hp
  | hmblk => exact inv_hmblk h hr
  | hmfin => exact inv_hmfin h hr
  | hout => exact inv_hout h hr
  | cinit | uupd => exact h.of_banks (fun _ => rfl) rfl
  | cenc | cdec | uinit | uinitz | uout | twenc | cfgser => exact h.of_banks id rfl

/-- Every command keeps the invariant. -/
theorem inv_exec {i : Instr} {s t : State} (h : Inv s) (he : exec i s = .next t) : Inv t := by
  rcases exec_cases he with ⟨-, rfl⟩ | ⟨-, -, rfl⟩ | ⟨k, -, -, -, rfl⟩ | ⟨-, -, hr, rfl⟩
  · exact inv_reset h
  · exact h
  · exact inv_raise h k
  · exact inv_effectOf h hr

/-- Every CMD write keeps the invariant, whether its value is a command or not (R22, R136). -/
theorem inv_writeCmd {w : Word} {s t : State} (h : Inv s) (he : writeCmd w s = .next t) : Inv t := by
  rcases writeCmd_cases w s with ⟨i, -, hw⟩ | ⟨e, -, hw⟩ <;> rw [hw] at he
  · exact inv_exec h he
  · rcases command_cases he with ⟨-, rfl⟩ | ⟨k, -, -, rfl⟩ | ⟨-, -, rfl⟩
    · exact h
    · exact inv_raise h k
    · exact h

/-- A write of a register other than CMD keeps the invariant, which speaks of no register the host can write (R33). -/
theorem inv_writeReg {s : State} (h : Inv s) (r : Reg) (v : Word) : Inv (writeReg r v s) := by
  cases r <;> exact h.of_banks id rfl

/-- The engine after hardware reset meets the invariant, whatever the host's side of the run (R150). -/
theorem inv_hardwareReset (s : State) : Inv (hardwareReset s) :=
  inv_clear (s := hardwareReset s) ⟨fun _ => rfl, nofun⟩ ⟨fun _ => ⟨rfl, rfl⟩, nofun⟩

/-- Settles O12. -/
theorem resetStateIsSound : Obligations.ResetStateIsSound := inv_hardwareReset State.reset

/-- Settles O13: a step makes the host's next move, and every move keeps the invariant. -/
theorem stepKeepsSoundness : Obligations.StepKeepsSoundness := by
  intro s t h he
  have hrest : ∀ rest, Inv { s with script := rest } := fun rest => h.of_banks id rfl
  rcases hs : s.script with _ | ⟨n | ⟨n, v⟩ | _, rest⟩
  · rw [step_nil hs] at he
    obtain rfl := Host.Outcome.next.inj he
    exact h
  · rw [step_read hs] at he
    obtain rfl := Host.Outcome.next.inj he
    exact h.of_banks id rfl
  · by_cases hn : n = 0
    · subst hn
      rw [step_command hs] at he
      exact inv_writeCmd (hrest rest) he
    · rw [step_write hs hn] at he
      obtain rfl := Host.Outcome.next.inj he
      exact inv_writeReg (hrest rest) _ v
  · rw [step_hardwareReset hs] at he
    obtain rfl := Host.Outcome.next.inj he
    exact inv_hardwareReset _

end Sys2Proof.Machine
end

section
/-! PROOF. The host's moves: a CMD write (O5), register reads and writes (O7, O8), STATUS as the host reads it (O9), and
hardware reset (O11). -/

namespace Sys2Proof.Machine

/-! ## A CMD write -/

/-- A write of a command's word runs the command (R22, R155). -/
theorem writeCmd_ok {w : Word} {i : Instr} (h : decode w = .ok i) (s : State) : writeCmd w s = exec i s := by
  rcases writeCmd_cases w s with ⟨j, hj, hw⟩ | ⟨e, he, -⟩
  · cases hj.symm.trans h
    exact hw
  · cases he.symm.trans h

/-- A write of any other value has the form of a command whose one check holds (R136). -/
theorem writeCmd_error {w : Word} {e : Illegal} (h : decode w = .error e) (s : State) :
    writeCmd w s = command [(true, .illegalCommand)] id s := by
  rcases writeCmd_cases w s with ⟨j, hj, -⟩ | ⟨e, -, hw⟩
  · cases hj.symm.trans h
  · exact hw

/-- Settles O5. -/
theorem stepRunsDecodedCommand : Obligations.StepRunsDecodedCommand := by
  refine ⟨fun s w rest h => ⟨fun i hi => ?_, fun e he hf => ?_, fun e he hf => ?_⟩, fun s nbits w i hi => ?_⟩
  · rw [step_command h, writeCmd_ok hi]
  · rw [step_command h, writeCmd_error he]
    exact command_raises (k := .illegalCommand) hf rfl
  · rw [step_command h, writeCmd_error he]
    exact command_faulted hf
  · rw [step_command (s := s.withFetchWord nbits w) rfl, writeCmd_ok hi]
    rfl

/-! ## Words as byte views -/

/-- Byte k of the word of a byte string is its k-th byte (R41). -/
theorem wordByte_le64 : ∀ (bs : List Byte) {k : Nat}, k < 8 → wordByte (le64 bs) k = bs.getD k 0
  | [], k, _ => by
    ext i hi
    simp [wordByte, le64]
  | b :: bs, 0, _ => by
    ext i hi
    have h64 : i < 64 := by omega
    simp [wordByte, le64, hi, h64]
  | b :: bs, k + 1, hk => by
    rw [List.getD_cons_succ, ← wordByte_le64 bs (by omega)]
    ext i hi
    have hge : ¬8 * (k + 1) + i < 8 := by omega
    have hsub : 8 * (k + 1) + i - 8 = 8 * k + i := by omega
    have h64 : 8 * (k + 1) + i < 64 := by omega
    have hb : b.getLsbD (8 * (k + 1) + i) = false := BitVec.getLsbD_of_ge _ _ (by omega)
    simp [wordByte, le64, hge, hsub, h64, hb, BitVec.getLsbD_eq_getElem (show 8 * k + i < 64 by omega)]

/-- Byte j of the n bytes from an offset on (R42). -/
theorem getD_memReadBytes (m : Memory) (k : Nat) {n j : Nat} (h : j < n) :
    (memReadBytes m k n).getD j 0 = memRead m (k + j) := by
  simp [memReadBytes, h]

/-- Byte k of the eight bytes from an offset on. -/
theorem getD_take_drop (bs : List Byte) (a : Nat) {n k : Nat} (h : k < n) :
    ((bs.drop a).take n).getD k 0 = bs.getD (a + k) 0 := by
  simp [List.getD_eq_getElem?_getD, List.getElem?_take_of_lt h]

/-! ## Register reads and writes -/

/-- A register's value does not depend on the host's script. -/
theorem readReg_script (r : Reg) (s : State) (rest : List HostMove) :
    readReg r { s with script := rest } = readReg r s := by
  cases r <;> rfl

/-- Settles O7: the value is that of the register the number names. -/
theorem hostReadsReturnRegisters : Obligations.HostReadsReturnRegisters := by
  intro s n rest h
  refine ⟨readReg (regOf n) s, ?_, fun e => e ▸ rfl, fun e => e ▸ rfl, fun e => e ▸ rfl, fun e => e ▸ rfl,
    fun e => e ▸ rfl, fun e => e ▸ rfl, fun e => e ▸ rfl, fun e => e ▸ rfl, fun e => e ▸ rfl, fun e => e ▸ rfl,
    fun e => e ▸ rfl, fun e => e ▸ rfl, fun e => e ▸ rfl, fun e => e ▸ rfl, fun e => e ▸ rfl, fun e => e ▸ rfl,
    fun i e => ?_, fun i e => ?_, fun i e => ?_, fun j hj e k hk => ?_, fun j hj e k hk => ?_, fun hn => ?_⟩
  · rw [step_read h, ← readReg_script (regOf n) s rest]
    rfl
  · rw [e, regOf_key]
    rfl
  · rw [e, regOf_blk]
    rfl
  · rw [e, regOf_res]
    rfl
  · rw [e, regOf_cbw ⟨j, hj⟩]
    exact (wordByte_le64 _ hk).trans (getD_take_drop _ _ hk)
  · rw [e, regOf_obw hj]
    exact (wordByte_le64 _ hk).trans (getD_memReadBytes _ _ hk)
  · rw [regOf_reserved hn]
    rfl

/-- Settles O8: the register written is the one the number names, or none. -/
theorem hostWritesChangeOneRegister : Obligations.HostWritesChangeOneRegister := by
  intro s n v rest h hn
  refine ⟨writeReg (regOf n) v { s with script := rest }, step_write h hn, fun e => e ▸ rfl, fun e => e ▸ rfl,
    fun e => e ▸ rfl, fun e => e ▸ rfl, fun e => ?_, fun e => e ▸ rfl, fun e => e ▸ rfl, fun e => e ▸ rfl,
    fun i e => ?_, fun i e => ?_, fun hc hr => writeReg_ignored hc hr _ _⟩
  · rw [e, ← BitVec.setWidth_eq_extractLsb' (by omega)]
    rfl
  · rw [e, regOf_key]
    rfl
  · rw [e, regOf_blk]
    rfl

/-! ## STATUS -/

theorem getLsbD_flagWord (b : Bool) (i : Nat) : (flagWord b).getLsbD i = (decide (i = 0) && b) := by
  rw [flagWord, BitVec.getLsbD_setWidth, BitVec.getLsbD_ofBool]
  by_cases hi : i = 0 <;> simp [hi]

/-- A one-bit field at bit k. -/
theorem getLsbD_flagWord_shiftLeft (b : Bool) (k : Nat) {i : Nat} (hi : i < 64) :
    (flagWord b <<< k).getLsbD i = (decide (i = k) && b) := by
  rw [BitVec.getLsbD_shiftLeft, getLsbD_flagWord]
  rcases Nat.lt_trichotomy i k with h | rfl | h
  · simp [h, Nat.ne_of_lt h]
  · simp [hi]
  · simp [Nat.ne_of_gt h, Nat.sub_ne_zero_of_lt h]

/-- A field of several bits at bit k. -/
theorem getLsbD_setWidth_shiftLeft {n : Nat} (x : BitVec n) (k : Nat) {i : Nat} (hi : i < 64) :
    (x.setWidth 64 <<< k).getLsbD i = (decide (k ≤ i) && x.getLsbD (i - k)) := by
  rw [BitVec.getLsbD_shiftLeft, BitVec.getLsbD_setWidth]
  by_cases h : k ≤ i
  · simp [hi, h, show i - k < 64 by omega]
  · simp [h]

/-- Every bit of STATUS (R23). -/
theorem getLsbD_statusWord (s : State) {i : Nat} (hi : i < 64) : (statusWord s).getLsbD i =
    (decide (i = 0) && s.cfgv || decide (i = 1) && s.ckeyed || decide (i = 2) && s.fault ||
      decide (i = 3) && s.olmShort || decide (i = 4) && s.olmTrunc || decide (i = 5) && s.firstpend ||
      decide (i = 6) && s.cfgdone || decide (8 ≤ i) && (phaseCode s.phase).getLsbD (i - 8) ||
      decide (16 ≤ i) && s.lasttype.getLsbD (i - 16)) := by
  rw [statusWord]
  simp only [BitVec.getLsbD_or, getLsbD_flagWord, getLsbD_flagWord_shiftLeft _ _ hi,
    getLsbD_setWidth_shiftLeft _ _ hi]

/-- PHASE's field of STATUS (R23). -/
theorem statusWord_phase (s : State) : (statusWord s).extractLsb' 8 4 = phaseCode s.phase := by
  ext i hi
  rw [BitVec.getElem_extractLsb', getLsbD_statusWord s (by omega)]
  interval_cases i <;> simp

/-- LASTTYPE's field of STATUS (R23). -/
theorem statusWord_lasttype (s : State) : (statusWord s).extractLsb' 16 6 = s.lasttype := by
  ext i hi
  rw [BitVec.getElem_extractLsb', getLsbD_statusWord s (by omega)]
  interval_cases i <;> simp

/-- The bits of STATUS between PHASE and LASTTYPE (R23). -/
theorem statusWord_reserved (s : State) : (statusWord s).extractLsb' 12 4 = 0 := by
  ext i hi
  rw [BitVec.getElem_extractLsb', getLsbD_statusWord s (by omega)]
  interval_cases i <;> simp

/-- The bits of STATUS above LASTTYPE (R23). -/
theorem statusWord_upper (s : State) : (statusWord s).extractLsb' 22 42 = 0 := by
  ext i hi
  have hphase : (phaseCode s.phase).getLsbD (22 + i - 8) = false := BitVec.getLsbD_of_ge _ _ (by omega)
  have hlast : s.lasttype.getLsbD (22 + i - 16) = false := BitVec.getLsbD_of_ge _ _ (by omega)
  have hne : ∀ k < 22, 22 + i ≠ k := fun k hk => by omega
  rw [BitVec.getElem_extractLsb', getLsbD_statusWord s (by omega), hphase, hlast]
  simp [hne]

/-- Settles O9. -/
theorem statusWordLayout : Obligations.StatusWordLayout := by
  intro s
  refine ⟨?_, ?_, ?_, ?_, ?_, ?_, ?_, ?_, fun h => ?_, fun h => ?_, fun h => ?_, fun h => ?_, fun h => ?_, fun h => ?_,
    fun h => ?_, statusWord_reserved s, statusWord_lasttype s, statusWord_upper s⟩
  iterate 8 rw [getLsbD_statusWord s (by omega)]; simp
  iterate 7 rw [statusWord_phase, h]; rfl

/-! ## Hardware reset -/

/-- An empty buffer holds zero bytes (R21). -/
theorem memReadBytes_nil (k n : Nat) : memReadBytes [] k n = List.replicate n 0 := by
  change (List.range n).map (fun _ => (0 : Byte)) = _
  rw [List.map_const', List.length_range]

/-- Every register reads 0 after hardware reset (R35, R150). -/
theorem readReg_hardwareReset (r : Reg) (s : State) : readReg r (hardwareReset s) = 0 := by
  cases r with
  | key i | blk i | res i => exact Vector.getElem_replicate i.isLt
  | cbw j =>
    revert j
    change ∀ j : Fin 4, le64 (((Vector.replicate 32 0).toList.drop (8 * j.val)).take 8) = 0
    decide
  | obw j => exact (congrArg le64 (memReadBytes_nil (8 * j) 8)).trans (by decide)
  | status =>
    change statusWord State.reset = 0
    decide
  | _ => rfl

/-- Settles O11. -/
theorem hardwareResetZeroesTheState : Obligations.HardwareResetZeroesTheState := fun _ _ h =>
  ⟨_, step_hardwareReset h, rfl, fun n => readReg_hardwareReset (regOf n) _, fun i => Vector.getElem_replicate i.isLt,
    fun i => Vector.getElem_replicate i.isLt, fun i => Vector.getElem_replicate i.isLt,
    fun i => Vector.getElem_replicate i.isLt, fun _ => rfl, rfl⟩

end Sys2Proof.Machine
end

section
/-! PROOF. Who writes what: the registers no command writes (O54), the writers of each engine-written register (O55), and the
bank words beyond the block size (O56). -/

namespace Sys2Proof.Machine

/-! ## What a command leaves unchanged -/

/-- HOUT writes the tweak, the schedules, the chaining value, the digest, and the sequencer's PHASE and LASTTYPE only
(R113, R114). -/
theorem houtEffect_frame (s : State) : { houtEffect s with
    twk0 := s.twk0, twk1 := s.twk1, ks := s.ks, ts := s.ts, cv := s.cv, ckeyed := s.ckeyed, obuf := s.obuf, olen := s.olen,
    olmShort := s.olmShort, olmTrunc := s.olmTrunc, phase := s.phase, lasttype := s.lasttype } = s := by
  obtain ⟨t0, t1, ks, ts, ck, cv, e⟩ := outputBlocks_frame (outputBlockCount s s.houtlen) s (outputBlockCount s s.houtlen)
  rw [houtEffect, e]
  rfl

/-- A field that HOUT does not write is kept. -/
theorem houtEffect_keeps (s : State) {α : Type} (f : State → α) (hf : ∀ u v : State, f { u with
    twk0 := v.twk0, twk1 := v.twk1, ks := v.ks, ts := v.ts, cv := v.cv, ckeyed := v.ckeyed, obuf := v.obuf, olen := v.olen,
    olmShort := v.olmShort, olmTrunc := v.olmTrunc, phase := v.phase, lasttype := v.lasttype } = f u) :
    f (houtEffect s) = f s :=
  (hf (houtEffect s) s).symm.trans (congrArg f (houtEffect_frame s))

/-- The commands whose effect writes no more than a hash step short of its output: all but those that run Clear(), those
that write RES, and HOUT. -/
def writesOnlyHashFields : Instr → Bool
  | .reset | .setcfg | .hinit | .cenc | .cdec | .uout | .hout => false
  | _ => true

theorem effectOf_onlyHashFields {i : Instr} (h : writesOnlyHashFields i = true) (s : State) :
    OnlyHashFields s (effectOf i s) := by
  cases i with
  | reset | setcfg | hinit | cenc | cdec | uout | hout => cases h
  | hprs | hpk | hkdf | hnon => exact optionalEffect_onlyHashFields _ s
  | hmblk | hmfin => exact messageBlock_onlyHashFields _ _ _ _ _ s
  | nop | cinit | uinit | uinitz | uupd | twenc | cfgser | hkey => rfl

/-- What neither a fault nor the effect of a command changes is kept. -/
theorem exec_keeps {i : Instr} {s t : State} (he : exec i s = .next t) (hi : i ≠ .reset) {α : Type} (f : State → α)
    (hraise : ∀ k, f (raise k s) = f s) (heff : f (effectOf i s) = f s) : f t = f s := by
  rcases exec_cases he with ⟨h, -⟩ | ⟨-, -, rfl⟩ | ⟨k, -, -, -, rfl⟩ | ⟨-, -, -, rfl⟩
  · exact absurd h hi
  · rfl
  · exact hraise k
  · exact heff

/-! ## The host's registers -/

theorem houtEffect_hostSideKept (s : State) : HostSideKept s (houtEffect s) where
  key := houtEffect_keeps s State.key fun _ _ => rfl
  blk := houtEffect_keeps s State.blk fun _ _ => rfl
  bsize := houtEffect_keeps s State.bsize fun _ _ => rfl
  rounds := houtEffect_keeps s State.rounds fun _ _ => rfl
  pos := houtEffect_keeps s State.pos fun _ _ => rfl
  outlen := houtEffect_keeps s State.outlen fun _ _ => rfl
  tree := houtEffect_keeps s State.tree fun _ _ => rfl
  ilen := houtEffect_keeps s State.ilen fun _ _ => rfl
  script := houtEffect_keeps s State.script fun _ _ => rfl
  reads := houtEffect_keeps s State.reads fun _ _ => rfl

theorem effectOf_hostSideKept (i : Instr) (s : State) : HostSideKept s (effectOf i s) := by
  cases i with
  | reset | setcfg | hinit | cenc | cdec | uout => exact ⟨rfl, rfl, rfl, rfl, rfl, rfl, rfl, rfl, rfl, rfl⟩
  | hout => exact houtEffect_hostSideKept s
  | _ => exact (effectOf_onlyHashFields rfl s).hostSideKept

/-- Settles O54. -/
theorem noCommandWritesHostRegisters : Obligations.NoCommandWritesHostRegisters := by
  intro i s t he
  rcases exec_cases he with ⟨-, rfl⟩ | ⟨-, -, rfl⟩ | ⟨k, -, -, -, rfl⟩ | ⟨-, -, -, rfl⟩
  · exact effectOf_hostSideKept .reset s
  · exact ⟨rfl, rfl, rfl, rfl, rfl, rfl, rfl, rfl, rfl, rfl⟩
  · exact ⟨rfl, rfl, rfl, rfl, rfl, rfl, rfl, rfl, rfl, rfl⟩
  · exact effectOf_hostSideKept i s

/-! ## The writers of each engine-written register -/

theorem effectOf_configurationKept {i : Instr} (h : i ≠ .setcfg) (s : State) : ConfigurationKept s (effectOf i s) := by
  cases i with
  | setcfg => exact absurd rfl h
  | reset | hinit | cenc | cdec | uout => exact ⟨rfl, rfl, rfl⟩
  | hout =>
    exact ⟨houtEffect_keeps s State.cfgv fun _ _ => rfl, houtEffect_keeps s State.cfgnw fun _ _ => rfl,
      houtEffect_keeps s State.cfgnr fun _ _ => rfl⟩
  | _ => exact (effectOf_onlyHashFields rfl s).configurationKept

/-- Only SETCFG writes the configuration (R26). -/
theorem exec_configurationKept {i : Instr} {s t : State} (he : exec i s = .next t) (h : i ≠ .setcfg) :
    ConfigurationKept s t := by
  rcases exec_cases he with ⟨-, rfl⟩ | ⟨-, -, rfl⟩ | ⟨k, -, -, -, rfl⟩ | ⟨-, -, -, rfl⟩
  · exact ⟨rfl, rfl, rfl⟩
  · exact ⟨rfl, rfl, rfl⟩
  · exact ⟨rfl, rfl, rfl⟩
  · exact effectOf_configurationKept h s

/-- Only the commands that run Clear() write HOUTLEN (R31). -/
theorem effectOf_houtlen {i : Instr} (hc : i ∉ [.reset, .setcfg, .hinit]) (s : State) :
    (effectOf i s).houtlen = s.houtlen := by
  cases i with
  | reset | setcfg | hinit => exact absurd (by decide) hc
  | cenc | cdec | uout => rfl
  | hout => exact houtEffect_keeps s State.houtlen fun _ _ => rfl
  | _ => exact (effectOf_onlyHashFields rfl s).keeps State.houtlen fun _ _ => rfl

/-- Only CENC, CDEC and UOUT write RES, besides Clear() (R14). -/
theorem effectOf_res {i : Instr} (hc : i ∉ [.reset, .setcfg, .hinit]) (h : i ∉ [.cenc, .cdec, .uout]) (s : State) :
    (effectOf i s).res = s.res := by
  cases i with
  | reset | setcfg | hinit => exact absurd (by decide) hc
  | cenc | cdec | uout => exact absurd (by decide) h
  | hout => exact houtEffect_keeps s State.res fun _ _ => rfl
  | _ => exact (effectOf_onlyHashFields rfl s).keeps State.res fun _ _ => rfl

/-- Only HOUT writes the digest and the OLM flags, besides Clear() (R21). -/
theorem effectOf_digest {i : Instr} (hc : i ∉ [.reset, .setcfg, .hinit]) (h : i ≠ .hout) (s : State) :
    (effectOf i s).olen = s.olen ∧ (effectOf i s).obuf = s.obuf ∧ (effectOf i s).olmShort = s.olmShort ∧
      (effectOf i s).olmTrunc = s.olmTrunc := by
  cases i with
  | reset | setcfg | hinit => exact absurd (by decide) hc
  | hout => exact absurd rfl h
  | cenc | cdec | uout => exact ⟨rfl, rfl, rfl, rfl⟩
  | _ => exact (effectOf_onlyHashFields rfl s).digestKept

theorem effectOf_schedules {i : Instr} (h : i ∈ [.nop, .cenc, .cdec, .uinit, .uinitz, .uout, .cfgser] ∨
    ∃ ty p f l, i = .twenc ty p f l) (s : State) :
    (effectOf i s).ks = s.ks ∧ (effectOf i s).ts = s.ts ∧ (effectOf i s).ckeyed = s.ckeyed := by
  cases i with
  | nop | cenc | cdec | uinit | uinitz | uout | cfgser | twenc => exact ⟨rfl, rfl, rfl⟩
  | _ => simp at h

theorem effectOf_cv {i : Instr} (h : i ∈ [.nop, .cinit, .cenc, .cdec, .uout, .cfgser] ∨
    ∃ ty p f l, i = .twenc ty p f l) (s : State) : (effectOf i s).cv = s.cv := by
  cases i with
  | nop | cinit | cenc | cdec | uout | cfgser | twenc => rfl
  | _ => simp at h

theorem effectOf_twk {i : Instr} (h : i ∈ [.nop, .cinit, .cenc, .cdec, .uinit, .uinitz, .uupd, .uout, .cfgser])
    (s : State) : (effectOf i s).twk0 = s.twk0 ∧ (effectOf i s).twk1 = s.twk1 := by
  cases i with
  | nop | cinit | cenc | cdec | uinit | uinitz | uupd | uout | cfgser => exact ⟨rfl, rfl⟩
  | _ => simp at h

theorem effectOf_cb {i : Instr} (h : i ∈ [.nop, .cinit, .cenc, .cdec, .uinit, .uinitz, .uupd, .uout, .hkey, .hout] ∨
    ∃ ty p f l, i = .twenc ty p f l) (s : State) : (effectOf i s).cb = s.cb := by
  cases i with
  | nop | cinit | cenc | cdec | uinit | uinitz | uupd | uout | hkey | twenc => rfl
  | hout => exact houtEffect_keeps s State.cb fun _ _ => rfl
  | _ => simp at h

/-- Only the message commands move BPOS and clear FIRSTPEND, besides Clear() and HINIT (R31, R23). -/
theorem effectOf_position {i : Instr} (hc : i ∉ [.reset, .setcfg, .hinit]) (hm : i ≠ .hmblk) (hf : ∀ b, i ≠ .hmfin b)
    (s : State) : (effectOf i s).bpos = s.bpos ∧ (effectOf i s).firstpend = s.firstpend := by
  cases i with
  | reset | setcfg | hinit => exact absurd (by decide) hc
  | hmblk => exact absurd rfl hm
  | hmfin b => exact absurd rfl (hf b)
  | hprs | hpk | hkdf | hnon => exact ⟨ensureConfig_bpos s, ensureConfig_firstpend s⟩
  | hout => exact ⟨houtEffect_keeps s State.bpos fun _ _ => rfl, houtEffect_keeps s State.firstpend fun _ _ => rfl⟩
  | _ => exact ⟨rfl, rfl⟩

/-- Settles O55. -/
theorem engineRegistersHaveTheirWriters : Obligations.EngineRegistersHaveTheirWriters := by
  intro i s t he
  refine ⟨exec_configurationKept he, fun hc => ?_⟩
  have hi : i ≠ .reset := fun h => hc (h ▸ List.mem_cons_self)
  refine ⟨exec_keeps he hi State.houtlen (fun _ => rfl) (effectOf_houtlen hc s),
    fun h => exec_keeps he hi State.res (fun _ => rfl) (effectOf_res hc h s), fun h => ?_, fun h => ?_,
    fun h => exec_keeps he hi State.cv (fun _ => rfl) (effectOf_cv h s), fun h => ?_,
    fun h => exec_keeps he hi State.cb (fun _ => rfl) (effectOf_cb h s), fun hm hf => ?_⟩
  · obtain ⟨hlen, hbuf, hshort, htrunc⟩ := effectOf_digest hc h s
    have hobuf := exec_keeps he hi State.obuf (fun _ => rfl) hbuf
    exact ⟨exec_keeps he hi State.olen (fun _ => rfl) hlen, fun k => by rw [hobuf],
      exec_keeps he hi State.olmShort (fun _ => rfl) hshort, exec_keeps he hi State.olmTrunc (fun _ => rfl) htrunc⟩
  · obtain ⟨hks, hts, hck⟩ := effectOf_schedules h s
    exact ⟨exec_keeps he hi State.ks (fun _ => rfl) hks, exec_keeps he hi State.ts (fun _ => rfl) hts,
      exec_keeps he hi State.ckeyed (fun _ => rfl) hck⟩
  · obtain ⟨h0, h1⟩ := effectOf_twk h s
    exact ⟨exec_keeps he hi State.twk0 (fun _ => rfl) h0, exec_keeps he hi State.twk1 (fun _ => rfl) h1⟩
  · obtain ⟨hb, hp⟩ := effectOf_position hc hm hf s
    exact ⟨exec_keeps he hi State.bpos (fun _ => rfl) hb, exec_keeps he hi State.firstpend (fun _ => rfl) hp⟩

end Sys2Proof.Machine
end

section
/-! PROOF. The bank words beyond the block size are kept (O56): every write of a bank is a write of one block. -/

namespace Sys2Proof.Machine

/-- A word beyond the ones that a write replaces is kept, where the write replaces at most `m`. -/
theorem writeLow_keeps_from {n m : Nat} (bank : Vector Word n) {ws : List Word} (hw : ws.length = m) (hm : m ≤ n)
    (i : Fin n) (hi : m ≤ i.val) : (writeLow bank ws)[i] = bank[i] :=
  getElem_writeLow_ge bank ws (hw.trans_le hm) i.isLt (hw.trans_le hi)

theorem highWordsKept_refl (s : State) : HighWordsKept s s := ⟨fun _ _ => rfl, fun _ _ => rfl, fun _ _ => rfl⟩

theorem HighWordsKept.trans {s t u : State} (h : HighWordsKept s t) (hn : blockWords t = blockWords s)
    (h' : HighWordsKept t u) : HighWordsKept s u where
  res i hi := (h'.res i (hn.trans_le hi)).trans (h.res i hi)
  cv i hi := (h'.cv i (hn.trans_le hi)).trans (h.cv i hi)
  ks i hi := (h'.ks i (hn.trans_lt hi)).trans (h.ks i hi)

section
variable {s : State} (h : LegalCount (blockWords s))
include h

theorem highWordsKept_setResult {ws : List Word} (hw : ws.length = blockWords s) : HighWordsKept s (setResult ws s) where
  res := writeLow_keeps_from s.res hw (legalCount_le h)
  cv _ _ := rfl
  ks _ _ := rfl

theorem highWordsKept_setChaining {ws : List Word} (hw : ws.length = blockWords s) :
    HighWordsKept s (setChaining ws s) where
  res _ _ := rfl
  cv := writeLow_keeps_from s.cv hw (legalCount_le h)
  ks _ _ := rfl

theorem highWordsKept_setSchedule {ws : List Word} (hw : ws.length = blockWords s) (ts : Vector Word 3) :
    HighWordsKept s (setSchedule (keySchedule ws) ts s) where
  res _ _ := rfl
  cv _ _ := rfl
  ks := writeLow_keeps_from s.ks ((length_keySchedule ws).trans (congrArg (· + 1) hw)) (Nat.succ_le_succ (legalCount_le h))

/-- A step that keys the cipher with one block and chains to another writes the used words only (R82, R102). -/
theorem highWordsKept_of_chaining {t : State} {g0 g : List Word} (hg0 : g0.length = blockWords s)
    (hg : g.length = blockWords s) (hres : t.res = s.res) (hks : t.ks = writeLow s.ks (keySchedule g0))
    (hcv : t.cv = writeLow s.cv g) : HighWordsKept s t where
  res i _ := by rw [hres]
  cv := by
    rw [hcv]
    exact (highWordsKept_setChaining h hg).cv
  ks := by
    rw [hks]
    exact (highWordsKept_setSchedule h hg0 s.ts).ks

/-- Whatever has PHASE and LASTTYPE written after a pass, the pass writes the used words only (R102). -/
theorem highWordsKept_of_pass {t : State} (final first : Bool) (type : BitVec 6) (bitpad : Bool) (pos : Word) {m : List Word}
    (hm : m.length = blockWords s) (hres : t.res = s.res) (hks : t.ks = (pass final first type bitpad pos m s).ks)
    (hcv : t.cv = (pass final first type bitpad pos m s).cv) : HighWordsKept s t :=
  highWordsKept_of_chaining h (length_cvWords h) (length_hashStep h _ _ _ _ _ _ _ hm) hres hks hcv

theorem highWordsKept_uupdEffect : HighWordsKept s (uupdEffect s) := by
  have hm := length_blkWords h
  exact highWordsKept_of_chaining h (length_cvWords h)
    (by rw [length_feedForward, length_encrypt h _ _ _ hm, hm, Nat.min_self]) rfl rfl rfl

theorem highWordsKept_ensureConfig : HighWordsKept s (ensureConfig s) := by
  rcases ensureConfig_cases s with ⟨-, e⟩ | ⟨-, e⟩ <;> rw [e]
  · exact highWordsKept_refl s
  · exact highWordsKept_of_pass h true true tagCfg false 32
      (length_blockOf (blockWords s) (configBytes s.houtlen 0 0 0).toList) rfl rfl rfl

theorem highWordsKept_optionalEffect (tag : BitVec 6) : HighWordsKept s (optionalEffect tag s) := by
  have hn := ensureConfig_blockWords s
  have hpass : HighWordsKept (ensureConfig s) (optionalEffect tag s) :=
    highWordsKept_of_pass (hn.symm ▸ h) true true tag false (ensureConfig s).ilen (length_blockOf _ _) rfl rfl rfl
  exact (highWordsKept_ensureConfig h).trans hn hpass

theorem highWordsKept_messageBlock (final bitpad : Bool) (n : Nat) {m : List Word} (hm : m.length = blockWords s)
    (after : Phase) : HighWordsKept s (messageBlock final bitpad n m after s) := by
  have hn := ensureConfig_blockWords s
  have hpass : HighWordsKept (ensureConfig s) (messageBlock final bitpad n m after s) :=
    highWordsKept_of_pass (hn.symm ▸ h) final (ensureConfig s).firstpend tagMsg bitpad
      ((ensureConfig s).bpos + BitVec.ofNat 64 n) (hm.trans hn.symm) rfl rfl rfl
  exact (highWordsKept_ensureConfig h).trans hn hpass

theorem highWordsKept_outputBlocks (n k : Nat) : HighWordsKept s (outputBlocks n k s).1 := by
  have hl := length_hashOutput h (roundCount s) n (length_cvWords h)
  rcases (outputBlocks_eq h n k).2 with ⟨-, e⟩ | ⟨j, -, e⟩ <;> rw [e]
  · exact highWordsKept_refl s
  · exact highWordsKept_of_chaining h (hl j) (hl k) rfl rfl rfl

/-- Once its checks have passed, every command but those that run Clear() writes the used words only (R34). -/
theorem highWordsKept_effectOf {i : Instr} (hc : i ∉ [.reset, .setcfg, .hinit]) : HighWordsKept s (effectOf i s) := by
  cases i with
  | reset | setcfg | hinit => exact absurd (by decide) hc
  | nop | twenc | cfgser => exact ⟨fun _ _ => rfl, fun _ _ => rfl, fun _ _ => rfl⟩
  | cinit => exact highWordsKept_setSchedule h (length_keyWords h) _
  | cenc => exact highWordsKept_setResult h (length_encrypt h _ _ _ (length_blkWords h))
  | cdec => exact highWordsKept_setResult h (length_decrypt h _ _ _ (length_blkWords h))
  | uinit => exact highWordsKept_setChaining h (length_blkWords h)
  | uinitz => exact highWordsKept_setChaining h List.length_replicate
  | uupd => exact highWordsKept_uupdEffect h
  | uout => exact highWordsKept_setResult h (length_cvWords h)
  | hkey => exact highWordsKept_of_pass h true true tagKey false s.ilen (length_blockOf _ _) rfl rfl rfl
  | hprs | hpk | hkdf | hnon => exact highWordsKept_optionalEffect h _
  | hmblk => exact highWordsKept_messageBlock h _ _ _ (length_blkWords h) _
  | hmfin => exact highWordsKept_messageBlock h _ _ _ (length_blockOf _ _) _
  | hout =>
    obtain ⟨hr, hc, hk⟩ := highWordsKept_outputBlocks h (outputBlockCount s s.houtlen) (outputBlockCount s s.houtlen)
    exact ⟨hr, hc, hk⟩

end

/-- A command that needs a configuration has its effect on a configured engine only (R137 (a)). -/
theorem configured_of_runs {i : Instr} (hi : needsConfiguration i = true) {s : State}
    (hr : firstRaised (checksOf i s) = none) : s.cfgv = true := by
  have hfirst : ∀ {k : FaultKind} {rest : List (Bool × FaultKind)}, firstRaised ((!s.cfgv, k) :: rest) = none →
      s.cfgv = true := fun hr => by
    have hconfigured := (Iff.mp firstRaised_cons_eq_none hr).1
    rwa [Bool.not_eq_false'] at hconfigured
  cases i with
  | nop | reset | setcfg | twenc | cfgser => cases hi
  | _ => exact hfirst hr

/-- The commands that need no configuration write no bank, besides Clear(). -/
theorem highWordsKept_unconfigured {i : Instr} (hi : needsConfiguration i = false) (hc : i ∉ [.reset, .setcfg, .hinit])
    (s : State) : HighWordsKept s (effectOf i s) := by
  cases i with
  | nop | twenc | cfgser => exact ⟨fun _ _ => rfl, fun _ _ => rfl, fun _ _ => rfl⟩
  | reset | setcfg => exact absurd (by decide) hc
  | _ => cases hi

/-- Settles O56. -/
theorem wordsBeyondBlockAreKept : Obligations.WordsBeyondBlockAreKept := by
  intro i s t hs he hc
  rcases exec_cases he with ⟨h, -⟩ | ⟨-, -, rfl⟩ | ⟨k, -, -, -, rfl⟩ | ⟨-, -, hr, rfl⟩
  · exact absurd (h ▸ List.mem_cons_self) hc
  · exact highWordsKept_refl _
  · exact ⟨fun _ _ => rfl, fun _ _ => rfl, fun _ _ => rfl⟩
  · cases hi : needsConfiguration i with
    | true => exact highWordsKept_effectOf (hs.legalCount (configured_of_runs hi hr)) hc
    | false => exact highWordsKept_unconfigured hi hc s

end Sys2Proof.Machine
end

section
/-! PROOF. What a command reads: two runs of one command from states that differ in what it does not read; OUTLEN and TREE
(O58). -/

namespace Sys2Proof.Machine

/-- Two runs of one command from related states that make the same checks: both are ignored, both fault alike, or both have
the effect. -/
theorem exec_related {R : State → State → Prop} {i : Instr} {s s' t : State} (he : exec i s = .next t)
    (hfault : s'.fault = s.fault) (hchecks : checksOf i s' = checksOf i s) (hsame : R s s')
    (hraise : ∀ k, R (raise k s) (raise k s'))
    (heff : firstRaised (checksOf i s) = none → R (effectOf i s) (effectOf i s')) :
    ∃ t', exec i s' = .next t' ∧ R t t' := by
  rcases exec_cases he with ⟨rfl, rfl⟩ | ⟨hi, hf, rfl⟩ | ⟨k, hi, hf, hk, rfl⟩ | ⟨hi, hf, hr, rfl⟩
  · exact ⟨_, rfl, heff rfl⟩
  · exact ⟨s', by rw [exec_eq hi]; exact command_faulted (hfault.trans hf), hsame⟩
  · exact ⟨_, exec_raises hi (hfault.trans hf) (hchecks ▸ hk), hraise k⟩
  · exact ⟨_, exec_runs hi (hfault.trans hf) (hchecks ▸ hr), heff hr⟩

/-! ## The effects as single operations on the state -/

theorem ensureConfig_done {s : State} (h : s.cfgdone = true) : ensureConfig s = s := if_pos h

theorem ensureConfig_due {s : State} (h : s.cfgdone = false) : ensureConfig s = configPass s :=
  if_neg (Bool.eq_false_iff.mp h)

theorem messageBlock_eq (final bitpad : Bool) (n : Nat) (m : List Word) (after : Phase) (s : State) :
    messageBlock final bitpad n m after s =
      setLasttype tagMsg (setPhase after (setFirstpend false
        (pass final (ensureConfig s).firstpend tagMsg bitpad ((ensureConfig s).bpos + BitVec.ofNat 64 n) m
          (setBpos ((ensureConfig s).bpos + BitVec.ofNat 64 n) (ensureConfig s))))) := rfl

theorem outputBlocks_succ (n k : Nat) (s : State) : outputBlocks n (k + 1) s =
    (outputPass n k (outputBlocks n k s).1,
      (outputBlocks n k s).2 ++ bytesOf (cvWords (outputPass n k (outputBlocks n k s).1))) := rfl

theorem houtEffect_eq (s : State) : houtEffect s =
    setLasttype tagOut (setPhase .done (deliver (s.houtlen.toNat / 8)
      (outputBlocks (outputBlockCount s s.houtlen) (outputBlockCount s s.houtlen) s).2
      (outputBlocks (outputBlockCount s s.houtlen) (outputBlockCount s s.houtlen) s).1)) := rfl

/-! ## OUTLEN and TREE -/

/-- The state with the host's OUTLEN and TREE written (R28, R29). -/
def setOutput (v : Word) (w : BitVec 24) (s : State) : State := { s with outlen := v, tree := w }

theorem ensureConfig_setOutput (v : Word) (w : BitVec 24) (s : State) :
    ensureConfig (setOutput v w s) = setOutput v w (ensureConfig s) := by
  cases h : s.cfgdone with
  | true => rw [ensureConfig_done h, ensureConfig_done (s := setOutput v w s) h]
  | false =>
    rw [ensureConfig_due h, ensureConfig_due (s := setOutput v w s) h]
    rfl

theorem optionalEffect_setOutput (tag : BitVec 6) (v : Word) (w : BitVec 24) (s : State) :
    optionalEffect tag (setOutput v w s) = setOutput v w (optionalEffect tag s) := by
  change setPhase .pre (optPass tag (ensureConfig (setOutput v w s))) = _
  rw [ensureConfig_setOutput]
  rfl

theorem messageBlock_setOutput (final bitpad : Bool) (n : Nat) (m : List Word) (after : Phase) (v : Word) (w : BitVec 24)
    (s : State) :
    messageBlock final bitpad n m after (setOutput v w s) = setOutput v w (messageBlock final bitpad n m after s) := by
  rw [messageBlock_eq, ensureConfig_setOutput]
  rfl

theorem outputBlocks_setOutput (n : Nat) (v : Word) (w : BitVec 24) (s : State) :
    ∀ k, outputBlocks n k (setOutput v w s) = (setOutput v w (outputBlocks n k s).1, (outputBlocks n k s).2)
  | 0 => rfl
  | k + 1 => by
    rw [outputBlocks_succ, outputBlocks_setOutput n v w s k]
    rfl

theorem houtEffect_setOutput (v : Word) (w : BitVec 24) (s : State) :
    houtEffect (setOutput v w s) = setOutput v w (houtEffect s) := by
  rw [houtEffect_eq, outputBlocks_setOutput]
  rfl

theorem effectOf_setOutput {i : Instr} (hi : i ≠ .hinit) (hc : i ≠ .cfgser) (v : Word) (w : BitVec 24) (s : State) :
    effectOf i (setOutput v w s) = setOutput v w (effectOf i s) := by
  cases i with
  | hinit => exact absurd rfl hi
  | cfgser => exact absurd rfl hc
  | hprs | hpk | hkdf | hnon => exact optionalEffect_setOutput _ v w s
  | hmblk | hmfin => exact messageBlock_setOutput _ _ _ _ _ v w s
  | hout => exact houtEffect_setOutput v w s
  | _ => rfl

theorem checksOf_setOutput {i : Instr} (hi : i ≠ .hinit) (v : Word) (w : BitVec 24) (s : State) :
    checksOf i (setOutput v w s) = checksOf i s := by
  cases i with
  | hinit => exact absurd rfl hi
  | _ => rfl

/-- Settles O58. -/
theorem outlenAndTreeAreLatched : Obligations.OutlenAndTreeAreLatched := by
  intro i s t v w hi hc he
  obtain ⟨t', ht', rfl⟩ := exec_related (R := fun a b => b = setOutput v w a) (s' := setOutput v w s) he rfl
    (checksOf_setOutput hi v w s) rfl (fun _ => rfl) (fun _ => effectOf_setOutput hi hc v w s)
  exact ht'

end Sys2Proof.Machine
end

section
/-! PROOF. The bank words beyond the block size are not read (O57): a relation between two states that agree on the used words,
kept by every operation a command is made of. -/

namespace Sys2Proof.Machine

/-! ## The passes as writes of the banks -/

theorem configPass_eq_pass (s : State) : configPass s =
    setLasttype tagCfg (setPhase .pre (setCfgdone
      (pass true true tagCfg false 32 (blockOf (blockWords s) (configBytes s.houtlen 0 0 0).toList)
        (setConfigBlock (configBytes s.houtlen 0 0 0) s)))) := rfl

theorem optPass_eq_pass (type : BitVec 6) (s : State) :
    optPass type s = setLasttype type (pass true true type false s.ilen (inBlock s s.ilen.toNat) s) := rfl

theorem ubiUpdate_eq_set (m : List Word) (t0 t1 : Word) (s : State) : ubiUpdate m t0 t1 s =
    setChaining
      (feedForward (encrypt (blockWords s) (roundCount s) (keySchedule (cvWords s)) (tweakSchedule t0 t1) m) m)
      (setSchedule (keySchedule (cvWords s)) (tweakSchedule t0 t1) s) := rfl

theorem outputPass_eq (n i : Nat) (s : State) : outputPass n i s =
    pass (decide (i + 1 = n)) (decide (i = 0)) tagOut false (outPos i) (counterBlock (blockWords s) i) s := rfl

/-! ## Words and banks -/

/-- Banks that agree below an index have the same words below it. -/
theorem take_toList_congr {n m : Nat} {b b' : Vector Word n} (h : ∀ i : Fin n, i.val < m → b'[i] = b[i]) :
    b'.toList.take m = b.toList.take m := by
  apply List.ext_getElem (by simp)
  intro i hi _
  rw [List.length_take, Vector.length_toList] at hi
  rw [List.getElem_take, List.getElem_take, Vector.getElem_toList, Vector.getElem_toList]
  exact h ⟨i, (Nat.lt_min.mp hi).2⟩ (Nat.lt_min.mp hi).1

/-- The words of a bank after a write, whatever the length of what is written (R34). -/
theorem getElem?_toList_writeLow {n : Nat} (b : Vector Word n) (ws : List Word) (i : Fin n) :
    (writeLow b ws).toList[i.val]? = if i.val < ws.length then ws[i.val]? else b.toList[i.val]? := by
  change ((ws ++ b.toList.drop ws.length).take n)[i.val]? = _
  rw [List.getElem?_take_of_lt i.isLt, List.getElem?_append, List.getElem?_drop]
  split
  · rfl
  · rw [Nat.add_sub_cancel' (by omega)]

/-- Where two banks agree they agree after the same write. -/
theorem getElem_writeLow_congr {n : Nat} {b b' : Vector Word n} (ws : List Word) {i : Fin n} (h : b'[i] = b[i]) :
    (writeLow b' ws)[i] = (writeLow b ws)[i] := by
  have hbank : b'.toList[i.val]? = b.toList[i.val]? := by simpa using h
  have hwrite : (writeLow b' ws).toList[i.val]? = (writeLow b ws).toList[i.val]? := by
    rw [getElem?_toList_writeLow, getElem?_toList_writeLow, hbank]
  simpa using hwrite

/-- The first bytes of a bank are those of its first words (R40). -/
theorem take_bytesOf {n m : Nat} (h : n ≤ 8 * m) (ws : List Word) :
    (bytesOf ws).take n = (bytesOf (ws.take m)).take n := by
  by_cases hm : m ≤ ws.length
  · have hsplit : bytesOf ws = bytesOf (ws.take m) ++ bytesOf (ws.drop m) := by
      rw [bytesOf, bytesOf, bytesOf, ← List.flatMap_append, List.take_append_drop]
    rw [hsplit, List.take_append_of_le_length (by rw [length_bytesOf, List.length_take_of_le hm]; exact h)]
  · rw [List.take_of_length_le (l := ws) (by omega)]

/-! ## The relation -/

/-- `u` with the banks of `v`. -/
def withBanks (u v : State) : State := { u with key := v.key, blk := v.blk, res := v.res, cv := v.cv, ks := v.ks }

namespace SameUsed

variable {nw : Nat} {s s' : State}

theorem withBanks_eq (h : SameUsed nw s s') : withBanks s' s = s := h.rest

/-- What does not depend on the banks is the same. -/
theorem keeps (h : SameUsed nw s s') {α : Type} (f : State → α) (hf : ∀ u v, f (withBanks u v) = f u) : f s' = f s :=
  (hf s' s).symm.trans (congrArg f h.withBanks_eq)

/-- An update that neither reads nor writes a bank. -/
theorem map (h : SameUsed nw s s') (f : State → State) (hf : ∀ u v, f (withBanks u v) = withBanks (f u) v) :
    SameUsed nw (f s) (f s') := by
  have hkey : ∀ u, (f u).key = u.key := fun u => have e := congrArg State.key (hf u u); e
  have hblk : ∀ u, (f u).blk = u.blk := fun u => have e := congrArg State.blk (hf u u); e
  have hres : ∀ u, (f u).res = u.res := fun u => have e := congrArg State.res (hf u u); e
  have hcv : ∀ u, (f u).cv = u.cv := fun u => have e := congrArg State.cv (hf u u); e
  have hks : ∀ u, (f u).ks = u.ks := fun u => have e := congrArg State.ks (hf u u); e
  have hrest : withBanks (f s') s = f s := (hf s' s).symm.trans (congrArg f h.withBanks_eq)
  constructor
  case key => rw [hkey, hkey]; exact h.key
  case blk => rw [hblk, hblk]; exact h.blk
  case res => rw [hres, hres]; exact h.res
  case cv => rw [hcv, hcv]; exact h.cv
  case ks => rw [hks, hks]; exact h.ks
  case rest => rw [hkey, hblk, hres, hcv, hks]; exact hrest

/-! ### What a command reads of the banks -/

theorem blockWords (h : SameUsed nw s s') : blockWords s' = blockWords s := h.keeps Machine.blockWords fun _ _ => rfl

theorem roundCount (h : SameUsed nw s s') : roundCount s' = roundCount s := h.keeps Machine.roundCount fun _ _ => rfl

section
variable (h : SameUsed (Machine.blockWords s) s s')
include h

theorem keyWords : keyWords s' = keyWords s :=
  (congrArg (s'.key.toList.take ·) h.blockWords).trans (take_toList_congr h.key)

theorem blkWords : blkWords s' = blkWords s :=
  (congrArg (s'.blk.toList.take ·) h.blockWords).trans (take_toList_congr h.blk)

theorem cvWords : cvWords s' = cvWords s :=
  (congrArg (s'.cv.toList.take ·) h.blockWords).trans (take_toList_congr h.cv)

theorem ksWords : ksWords s' = ksWords s :=
  (congrArg (s'.ks.toList.take <| · + 1) h.blockWords).trans
    (take_toList_congr fun i hi => h.ks i (Nat.le_of_lt_succ hi))

/-- An input of at most one block is read from the used words (R45). -/
theorem inBlock {n : Nat} (hn : n ≤ blockBytes s) : inBlock s' n = inBlock s n := by
  have hbytes : blkBytes s' n = blkBytes s n :=
    calc (bytesOf s'.blk.toList).take n
      _ = (bytesOf (Machine.blkWords s')).take n := take_bytesOf (hn.trans_eq (congrArg (8 * ·) h.blockWords.symm)) _
      _ = (bytesOf (Machine.blkWords s)).take n := by rw [h.blkWords]
      _ = (bytesOf s.blk.toList).take n := (take_bytesOf hn _).symm
  change blockOf (Machine.blockWords s') (blkBytes s' n) = blockOf (Machine.blockWords s) (blkBytes s n)
  rw [hbytes, h.blockWords]

end

/-! ### The writes of a bank -/

theorem setResult (h : SameUsed nw s s') (ws : List Word) : SameUsed nw (setResult ws s) (setResult ws s') where
  key := h.key
  blk := h.blk
  res i hi := getElem_writeLow_congr ws (h.res i hi)
  cv := h.cv
  ks := h.ks
  rest := congrArg (Machine.setResult ws) h.rest

theorem setChaining (h : SameUsed nw s s') (ws : List Word) : SameUsed nw (setChaining ws s) (setChaining ws s') where
  key := h.key
  blk := h.blk
  res := h.res
  cv i hi := getElem_writeLow_congr ws (h.cv i hi)
  ks := h.ks
  rest := congrArg (Machine.setChaining ws) h.rest

theorem setSchedule (h : SameUsed nw s s') (ks : List Word) (ts : Vector Word 3) :
    SameUsed nw (setSchedule ks ts s) (setSchedule ks ts s') where
  key := h.key
  blk := h.blk
  res := h.res
  cv := h.cv
  ks i hi := getElem_writeLow_congr ks (h.ks i hi)
  rest := congrArg (Machine.setSchedule ks ts) h.rest

theorem clear (h : SameUsed nw s s') : SameUsed nw (clear s) (clear s') where
  key := h.key
  blk := h.blk
  res _ _ := rfl
  cv _ _ := rfl
  ks _ _ := rfl
  rest := congrArg Machine.clear h.rest

/-! ### The passes and the commands -/

theorem ubiUpdate (h : SameUsed (Machine.blockWords s) s s') (m : List Word) (t0 t1 : Word) :
    SameUsed (Machine.blockWords s) (ubiUpdate m t0 t1 s) (ubiUpdate m t0 t1 s') := by
  rw [ubiUpdate_eq_set, ubiUpdate_eq_set, h.cvWords, h.blockWords, h.roundCount]
  exact (h.setSchedule _ _).setChaining _

theorem pass (h : SameUsed nw s s') (hn : Machine.blockWords s = nw) (final first : Bool) (type : BitVec 6) (bitpad : Bool)
    (pos : Word) (m : List Word) :
    SameUsed nw (pass final first type bitpad pos m s) (pass final first type bitpad pos m s') := by
  subst hn
  exact ubiUpdate (s := setTweak _ s) (h.map (setTweak _) fun _ _ => rfl) m _ _

theorem configPass (h : SameUsed nw s s') (hn : Machine.blockWords s = nw) :
    SameUsed nw (configPass s) (configPass s') := by
  have hlen : s'.houtlen = s.houtlen := h.keeps State.houtlen fun _ _ => rfl
  rw [configPass_eq_pass, configPass_eq_pass, hlen, h.blockWords]
  have hset := h.map (setConfigBlock (configBytes s.houtlen 0 0 0)) fun _ _ => rfl
  have hpass := hset.pass hn true true tagCfg false 32
    (blockOf (Machine.blockWords s) (configBytes s.houtlen 0 0 0).toList)
  exact hpass.map (fun u => setLasttype tagCfg (setPhase .pre (setCfgdone u))) fun _ _ => rfl

theorem ensureConfig (h : SameUsed nw s s') (hn : Machine.blockWords s = nw) :
    SameUsed nw (ensureConfig s) (ensureConfig s') := by
  have hcd : s'.cfgdone = s.cfgdone := h.keeps State.cfgdone fun _ _ => rfl
  cases hc : s.cfgdone with
  | true =>
    rw [ensureConfig_done hc, ensureConfig_done (hcd.trans hc)]
    exact h
  | false =>
    rw [ensureConfig_due hc, ensureConfig_due (hcd.trans hc)]
    exact h.configPass hn

theorem optPass (h : SameUsed nw s s') (hn : Machine.blockWords s = nw) (type : BitVec 6)
    (hlen : s.ilen.toNat ≤ blockBytes s) : SameUsed nw (optPass type s) (optPass type s') := by
  subst hn
  have hilen : s'.ilen = s.ilen := h.keeps State.ilen fun _ _ => rfl
  rw [optPass_eq_pass, optPass_eq_pass, hilen, h.inBlock hlen]
  exact (h.pass rfl true true type false s.ilen _).map (setLasttype type) fun _ _ => rfl

theorem optionalEffect (h : SameUsed nw s s') (hn : Machine.blockWords s = nw) (tag : BitVec 6)
    (hlen : s.ilen.toNat ≤ blockBytes s) : SameUsed nw (optionalEffect tag s) (optionalEffect tag s') := by
  have hu := ensureConfig_blockWords s
  have hi : (Machine.ensureConfig s).ilen.toNat ≤ blockBytes (Machine.ensureConfig s) := by
    rw [ensureConfig_ilen, blockBytes_eq, hu]
    exact hlen
  exact ((h.ensureConfig hn).optPass (hu.trans hn) tag hi).map (setPhase .pre) fun _ _ => rfl

theorem messageBlock (h : SameUsed nw s s') (hn : Machine.blockWords s = nw) (final bitpad : Bool) (n : Nat)
    (m : List Word) (after : Phase) :
    SameUsed nw (messageBlock final bitpad n m after s) (messageBlock final bitpad n m after s') := by
  have hu := h.ensureConfig hn
  have hbpos := hu.keeps State.bpos fun _ _ => rfl
  have hfirst := hu.keeps State.firstpend fun _ _ => rfl
  rw [messageBlock_eq, messageBlock_eq, hbpos, hfirst]
  have hpos := hu.map (setBpos ((Machine.ensureConfig s).bpos + BitVec.ofNat 64 n)) fun _ _ => rfl
  have hpass := hpos.pass ((ensureConfig_blockWords s).trans hn) final (Machine.ensureConfig s).firstpend tagMsg bitpad
    ((Machine.ensureConfig s).bpos + BitVec.ofNat 64 n) m
  exact hpass.map (fun u => setLasttype tagMsg (setPhase after (setFirstpend false u))) fun _ _ => rfl

theorem outputPass (h : SameUsed nw s s') (hn : Machine.blockWords s = nw) (n i : Nat) :
    SameUsed nw (outputPass n i s) (outputPass n i s') := by
  rw [outputPass_eq, outputPass_eq, h.blockWords]
  exact h.pass hn _ _ _ _ _ _

/-- The same digest bytes are generated (R113). -/
theorem outputBlocks (h : SameUsed nw s s') (hn : Machine.blockWords s = nw) (n : Nat) :
    ∀ k, SameUsed nw (outputBlocks n k s).1 (outputBlocks n k s').1 ∧ (outputBlocks n k s').2 = (outputBlocks n k s).2
  | 0 => ⟨h, rfl⟩
  | k + 1 => by
    obtain ⟨hs, hb⟩ := h.outputBlocks hn n k
    have hk : Machine.blockWords (Machine.outputBlocks n k s).1 = nw := (outputBlocks_blockWords n k s).trans hn
    have hpass := hs.outputPass hk n k
    have hcv := cvWords (s := Machine.outputPass n k (Machine.outputBlocks n k s).1) (hk.symm ▸ hpass)
    rw [outputBlocks_succ, outputBlocks_succ, hb, hcv]
    exact ⟨hpass, rfl⟩

theorem houtEffect (h : SameUsed nw s s') (hn : Machine.blockWords s = nw) :
    SameUsed nw (houtEffect s) (houtEffect s') := by
  have hlen : s'.houtlen = s.houtlen := h.keeps State.houtlen fun _ _ => rfl
  have hcount : outputBlockCount s' s.houtlen = outputBlockCount s s.houtlen :=
    h.keeps (outputBlockCount · s.houtlen) fun _ _ => rfl
  obtain ⟨hs, hb⟩ := h.outputBlocks hn (outputBlockCount s s.houtlen) (outputBlockCount s s.houtlen)
  rw [houtEffect_eq, houtEffect_eq, hlen, hcount, hb]
  exact hs.map (fun u => setLasttype tagOut (setPhase .done (deliver (s.houtlen.toNat / 8) _ u))) fun _ _ => rfl

section
variable (h : SameUsed (Machine.blockWords s) s s')
include h

theorem cinitEffect : SameUsed (Machine.blockWords s) (cinitEffect s) (cinitEffect s') := by
  have htwk0 : s'.twk0 = s.twk0 := h.keeps State.twk0 fun _ _ => rfl
  have htwk1 : s'.twk1 = s.twk1 := h.keeps State.twk1 fun _ _ => rfl
  rw [Machine.cinitEffect, Machine.cinitEffect, h.keyWords, htwk0, htwk1]
  exact h.setSchedule _ _

theorem cencEffect : SameUsed (Machine.blockWords s) (cencEffect s) (cencEffect s') := by
  have hts : s'.ts = s.ts := h.keeps State.ts fun _ _ => rfl
  rw [Machine.cencEffect, Machine.cencEffect, h.blockWords, h.roundCount, h.ksWords, h.blkWords, hts]
  exact h.setResult _

theorem cdecEffect : SameUsed (Machine.blockWords s) (cdecEffect s) (cdecEffect s') := by
  have hts : s'.ts = s.ts := h.keeps State.ts fun _ _ => rfl
  rw [Machine.cdecEffect, Machine.cdecEffect, h.blockWords, h.roundCount, h.ksWords, h.blkWords, hts]
  exact h.setResult _

theorem uinitEffect : SameUsed (Machine.blockWords s) (uinitEffect s) (uinitEffect s') := by
  rw [Machine.uinitEffect, Machine.uinitEffect, h.blkWords]
  exact h.setChaining _

theorem uinitzEffect : SameUsed (Machine.blockWords s) (uinitzEffect s) (uinitzEffect s') := by
  rw [Machine.uinitzEffect, Machine.uinitzEffect, h.blockWords]
  exact h.setChaining _

theorem uupdEffect : SameUsed (Machine.blockWords s) (uupdEffect s) (uupdEffect s') := by
  have htwk0 : s'.twk0 = s.twk0 := h.keeps State.twk0 fun _ _ => rfl
  have htwk1 : s'.twk1 = s.twk1 := h.keeps State.twk1 fun _ _ => rfl
  rw [Machine.uupdEffect, Machine.uupdEffect, h.blkWords, htwk0, htwk1]
  exact h.ubiUpdate _ _ _

theorem uoutEffect : SameUsed (Machine.blockWords s) (uoutEffect s) (uoutEffect s') := by
  rw [Machine.uoutEffect, Machine.uoutEffect, h.cvWords]
  exact h.setResult _

theorem hmblkEffect : SameUsed (Machine.blockWords s) (hmblkEffect s) (hmblkEffect s') := by
  have hnb : blockBytes s' = blockBytes s := h.keeps blockBytes fun _ _ => rfl
  rw [Machine.hmblkEffect, Machine.hmblkEffect, h.blkWords, hnb]
  exact h.messageBlock rfl _ _ _ _ _

theorem hmfinEffect (bitpad : Bool) (hlen : s.ilen.toNat ≤ blockBytes s) :
    SameUsed (Machine.blockWords s) (hmfinEffect bitpad s) (hmfinEffect bitpad s') := by
  have hilen : s'.ilen = s.ilen := h.keeps State.ilen fun _ _ => rfl
  rw [Machine.hmfinEffect, Machine.hmfinEffect, hilen, h.inBlock hlen]
  exact h.messageBlock rfl _ _ _ _ _

end

theorem checksOf (h : SameUsed nw s s') (i : Instr) : checksOf i s' = checksOf i s :=
  h.keeps (Machine.checksOf i) fun _ _ => by cases i <;> rfl

/-- Once its checks have passed, every command keeps the difference beyond the block size there (R34). -/
theorem effectOf (h : SameUsed (Machine.blockWords s) s s') {i : Instr}
    (hr : firstRaised (Machine.checksOf i s) = none) :
    SameUsed (Machine.blockWords s) (effectOf i s) (effectOf i s') := by
  cases i with
  | nop => exact h
  | reset => exact h.clear.map faultReturn fun _ _ => rfl
  | setcfg => exact h.clear.map (fun u => setConfiguration (u.bsize / 64) u.rounds u) fun _ _ => rfl
  | hinit => exact h.clear.map (fun u => setPhase .new (setFirstpend true (setHoutlen u.outlen u))) fun _ _ => rfl
  | twenc tag bitpad first final => exact h.map (twencEffect tag bitpad first final) fun _ _ => rfl
  | cfgser => exact h.map cfgserEffect fun _ _ => rfl
  | cinit => exact h.cinitEffect
  | cenc => exact h.cencEffect
  | cdec => exact h.cdecEffect
  | uinit => exact h.uinitEffect
  | uinitz => exact h.uinitzEffect
  | uupd => exact h.uupdEffect
  | uout => exact h.uoutEffect
  | hmblk => exact h.hmblkEffect
  | hkey =>
    obtain ⟨-, -, hlen⟩ := Iff.mp hkey_runs_iff hr
    exact (h.optPass rfl tagKey hlen).map (setPhase .keyed) fun _ _ => rfl
  | hprs | hpk | hkdf | hnon =>
    obtain ⟨-, -, hlen⟩ := Iff.mp optional_runs_iff hr
    exact h.optionalEffect rfl _ hlen
  | hmfin bitpad =>
    obtain ⟨-, -, hlen, -⟩ := Iff.mp hmfin_runs_iff hr
    exact h.hmfinEffect bitpad hlen
  | hout => exact h.houtEffect rfl

end SameUsed

/-- Settles O57: only the used words are read, whether or not the configuration is legal. -/
theorem wordsBeyondBlockAreUnread : Obligations.WordsBeyondBlockAreUnread := by
  intro i s s' t _ h he
  have hfault : s'.fault = s.fault := h.keeps State.fault fun _ _ => rfl
  obtain ⟨t', ht', hR⟩ := exec_related (R := SameUsed (blockWords s)) he hfault (h.checksOf i) h
    (fun k => h.map (raise k) fun _ _ => rfl) h.effectOf
  exact ⟨t', ht', hR⟩

end Sys2Proof.Machine
end

section
/-! PROOF. The byte views (O51, O52, O53): a block is determined by its bytes, so the two inverse laws of BytesOf and
BlockOf follow from what byte k of each one is. -/

namespace Sys2Proof.Machine

/-! ## The bytes of a word and of a block -/

/-- A word is determined by its eight bytes (R41). -/
theorem eq_of_wordByte_eq {v w : Word} (h : ∀ k < 8, wordByte v k = wordByte w k) : v = w := by
  ext i hi
  have hbit := congrArg (·.getLsbD (i % 8)) (h (i / 8) (by omega))
  simpa [wordByte, Nat.div_add_mod, Nat.mod_lt, hi] using hbit

theorem getElem?_wordBytes (w : Word) : ∀ {k : Nat}, k < 8 → (wordBytes w)[k]? = some (wordByte w k)
  | 0, _ | 1, _ | 2, _ | 3, _ | 4, _ | 5, _ | 6, _ | 7, _ => rfl

theorem bytesOf_cons (w : Word) (ws : List Word) : bytesOf (w :: ws) = wordBytes w ++ bytesOf ws := rfl

/-- Byte k of a block is byte k mod 8 of its word k div 8 (R46). -/
theorem getElem?_bytesOf : ∀ (ws : List Word) {k : Nat}, k < 8 * ws.length →
    (bytesOf ws)[k]? = some (wordByte (ws.getD (k / 8) 0) (k % 8))
  | w :: ws, k, hk => by
    rw [List.length_cons] at hk
    rw [bytesOf_cons]
    rcases Nat.lt_or_ge k 8 with hlt | hge
    · rw [List.getElem?_append_left (by simpa using hlt), getElem?_wordBytes w hlt, Nat.div_eq_of_lt hlt,
        Nat.mod_eq_of_lt hlt, List.getD_cons_zero]
    · obtain ⟨m, rfl⟩ := Nat.exists_eq_add_of_le' hge
      rw [List.getElem?_append_right (by simp), length_wordBytes, Nat.add_sub_cancel, getElem?_bytesOf ws (by omega),
        Nat.add_div_right m (by omega), Nat.add_mod_right, List.getD_cons_succ]

/-- Word j of a byte string is the word of its eight bytes from byte 8j on (R41, R44). -/
theorem getD_wordsOf : ∀ {n j : Nat} (bs : List Byte), j < n →
    (wordsOf n bs).getD j 0 = le64 ((bs.drop (8 * j)).take 8)
  | n + 1, 0, bs, _ => rfl
  | n + 1, j + 1, bs, hj => by
    rw [wordsOf, List.getD_cons_succ, getD_wordsOf _ (Nat.lt_of_succ_lt_succ hj), List.drop_drop, Nat.mul_succ,
      Nat.add_comm]

/-- Zero bytes appended to a string are what is read beyond its end anyway. -/
theorem getD_append_zeros (bs : List Byte) (n k : Nat) : (bs ++ List.replicate n 0).getD k 0 = bs.getD k 0 := by
  rcases Nat.lt_or_ge k bs.length with hlt | hge
  · exact List.getD_append _ _ _ _ hlt
  · rw [List.getD_append_right _ _ _ _ hge, List.getD_eq_default _ _ hge, List.getD_eq_getElem?_getD,
      List.getElem?_getD_replicate_default_eq]

/-- Byte k of word j of a padded block is byte 8j + k of the string, and zero beyond its end (R44). -/
theorem wordByte_getD_blockOf {nw j k : Nat} (bs : List Byte) (hj : j < nw) (hk : k < 8) :
    wordByte ((blockOf nw bs).getD j 0) k = bs.getD (8 * j + k) 0 := by
  rw [blockOf, getD_wordsOf _ hj, wordByte_le64 _ hk, getD_take_drop _ _ hk, getD_append_zeros]

/-! ## BytesOf and BlockOf are inverse -/

theorem blockOf_bytesOf (ws : List Word) : blockOf ws.length (bytesOf ws) = ws := by
  refine List.ext_getElem (length_blockOf _ _) fun j hj hj' => eq_of_wordByte_eq fun k hk => ?_
  calc wordByte (blockOf ws.length (bytesOf ws))[j] k
    _ = wordByte ((blockOf ws.length (bytesOf ws)).getD j 0) k := by rw [List.getD_eq_getElem _ _ hj]
    _ = (bytesOf ws).getD (8 * j + k) 0 := wordByte_getD_blockOf _ hj' hk
    _ = wordByte (ws.getD ((8 * j + k) / 8) 0) ((8 * j + k) % 8) := by
      rw [List.getD_eq_getElem?_getD, getElem?_bytesOf ws (by omega), Option.getD_some]
    _ = wordByte ws[j] k := by
      rw [show (8 * j + k) / 8 = j by omega, show (8 * j + k) % 8 = k by omega, List.getD_eq_getElem _ _ hj']

theorem bytesOf_blockOf {nw : Nat} {bs : List Byte} (h : bs.length = 8 * nw) : bytesOf (blockOf nw bs) = bs := by
  have hlen : (bytesOf (blockOf nw bs)).length = bs.length := by simp [h]
  refine List.ext_getElem hlen fun k hk hk' => Option.some_inj.mp ?_
  calc some (bytesOf (blockOf nw bs))[k]
    _ = some (wordByte ((blockOf nw bs).getD (k / 8) 0) (k % 8)) := by
      rw [← List.getElem?_eq_getElem hk, getElem?_bytesOf _ (by simpa using hk)]
    _ = some (bs.getD k 0) := by
      rw [wordByte_getD_blockOf bs (by omega) (by omega), Nat.div_add_mod]
    _ = some bs[k] := by rw [List.getD_eq_getElem _ _ hk']

/-- Settles O51. -/
theorem byteViewsAreInverse : Obligations.ByteViewsAreInverse :=
  ⟨fun ws _ hk => getElem?_bytesOf ws hk, fun _ ws h => h ▸ blockOf_bytesOf ws, fun _ _ h => bytesOf_blockOf h⟩

/-- Settles O52. -/
theorem shortBlocksAreZeroPadded : Obligations.ShortBlocksAreZeroPadded :=
  fun nw bs _ => ⟨length_blockOf nw bs, fun _ _ hj hk => wordByte_getD_blockOf bs hj hk⟩

/-! ## Input blocks -/

/-- Settles O53: an input block is made of the first n bytes of BLK and the block size, which is not in BLK. -/
theorem inputBytesBeyondLengthUnread : Obligations.InputBytesBeyondLengthUnread := by
  intro s b n _ h
  have hbytes : blkBytes { s with blk := b } n = blkBytes s n := by
    refine List.ext_getElem? fun k => ?_
    rw [blkBytes, blkBytes, List.getElem?_take, List.getElem?_take]
    exact ite_congr rfl (h k) fun _ => rfl
  exact congrArg (blockOf (blockWords s)) hbytes

end Sys2Proof.Machine
end

section
/-! PROOF. The command encoding (O1, O2, O4): a command word is determined by its opcode byte and its four fields, and the
decoder accepts a value exactly when its upper half is 0 and the row of its opcode byte finds its fixed bits in it. -/

namespace Sys2Proof

/-! ## The bits of a command word -/

/-- Each field of R50 stands at its bits, and every other bit is 0. -/
theorem getLsbD_commandOf (opc tag : BitVec 8) (bitpad first final : Bool) {i : Nat} (hi : i < 64) :
    (commandOf opc tag bitpad first final).getLsbD i =
      (opc.getLsbD i || decide (8 ≤ i) && tag.getLsbD (i - 8) || decide (i = 16) && bitpad || decide (i = 17) && first ||
        decide (i = 18) && final) := by
  rw [commandOf]
  simp only [BitVec.getLsbD_or, Machine.getLsbD_flagWord_shiftLeft _ _ hi, Machine.getLsbD_setWidth_shiftLeft _ _ hi,
    BitVec.getLsbD_setWidth, hi, decide_true, Bool.true_and]

/-- The bits above the fields are 0. -/
theorem getLsbD_commandOf_reserved (opc tag : BitVec 8) (bitpad first final : Bool) {i : Nat} (hi : 19 ≤ i) :
    (commandOf opc tag bitpad first final).getLsbD i = false := by
  rcases Nat.lt_or_ge i 64 with h | h
  · have hopc : opc.getLsbD i = false := BitVec.getLsbD_of_ge _ _ (by omega)
    have htag : tag.getLsbD (i - 8) = false := BitVec.getLsbD_of_ge _ _ (by omega)
    have hne : ∀ k < 19, i ≠ k := fun k hk => by omega
    simp [getLsbD_commandOf _ _ _ _ _ h, hopc, htag, hne]
  · exact BitVec.getLsbD_of_ge _ _ h

/-- The command word's upper half is 0 (R22, R50). -/
theorem commandOf_upper (opc tag : BitVec 8) (bitpad first final : Bool) :
    (commandOf opc tag bitpad first final).extractLsb' 32 32 = 0 := by
  ext i hi
  rw [BitVec.getElem_extractLsb', getLsbD_commandOf_reserved _ _ _ _ _ (by omega)]
  simp

/-- Each field is read back from its bits (R50). -/
theorem commandOf_fields (opc tag : BitVec 8) (bitpad first final : Bool) {c : BitVec 32}
    (hc : (commandOf opc tag bitpad first final).extractLsb' 0 32 = c) :
    c.extractLsb' 0 8 = opc ∧ fieldType c = tag ∧ fieldBitpad c = bitpad ∧ fieldFirst c = first ∧
      fieldFinal c = final := by
  subst hc
  have hbit : ∀ i < 32, ((commandOf opc tag bitpad first final).extractLsb' 0 32).getLsbD i = _ := fun i hi => by
    rw [BitVec.getLsbD_extractLsb', decide_eq_true hi, Bool.true_and, Nat.zero_add,
      getLsbD_commandOf _ _ _ _ _ (by omega)]
  refine ⟨?_, ?_, ?_, ?_, ?_⟩
  · ext i hi
    rw [BitVec.getElem_extractLsb', hbit _ (by omega)]
    interval_cases i <;> simp
  · ext i hi
    rw [fieldType, BitVec.getElem_extractLsb', hbit _ (by omega)]
    interval_cases i <;> simp
  · rw [fieldBitpad, hbit _ (by omega)]; simp
  · rw [fieldFirst, hbit _ (by omega)]; simp
  · rw [fieldFinal, hbit _ (by omega)]; simp

/-- A value with bits 63:19 zero is the command word of its own opcode byte and fields (R50). -/
theorem commandOf_eq_append {c : BitVec 32} (h : c.extractLsb' 19 13 = 0) :
    commandOf (c.extractLsb' 0 8) (fieldType c) (fieldBitpad c) (fieldFirst c) (fieldFinal c) = 0#32 ++ c := by
  refine BitVec.eq_of_getLsbD_eq fun i hi => ?_
  rw [BitVec.getLsbD_append]
  rcases Nat.lt_or_ge i 19 with hlow | hhigh
  · rw [getLsbD_commandOf _ _ _ _ _ hi]
    interval_cases i <;> simp [fieldType, fieldBitpad, fieldFirst, fieldFinal]
  · rw [getLsbD_commandOf_reserved _ _ _ _ _ hhigh]
    have hbit : (c.extractLsb' 19 13).getLsbD (i - 19) = false := by rw [h]; exact BitVec.getLsbD_zero
    rw [BitVec.getLsbD_extractLsb', Nat.add_sub_cancel' hhigh] at hbit
    by_cases hi32 : i < 32
    · simpa [hi32, show i - 19 < 13 by omega] using hbit.symm
    · simp [hi32]

/-! ## The rows of the opcode map -/

/-- Everything the decoder accepts: the upper half is 0, and the row of the opcode byte has its fixed bits (R51). -/
theorem decode_eq_ok_iff {w : Word} {i : Instr} : decode w = .ok i ↔ w.extractLsb' 32 32 = 0 ∧
    ∃ r, rows.find? (fun r => r.opc == (w.extractLsb' 0 32).extractLsb' 0 8) = some r ∧
      w.extractLsb' 0 32 &&& r.mask = r.opc.setWidth 32 ∧ r.build (w.extractLsb' 0 32) = i := by
  simp only [decode]
  generalize w.extractLsb' 0 32 = c
  by_cases hw : w.extractLsb' 32 32 = 0
  · cases rows.find? (fun r => r.opc == c.extractLsb' 0 8) with
    | none => simp [hw]
    | some r => by_cases hm : c &&& r.mask = r.opc.setWidth 32 <;> simp [hw, hm]
  · rw [if_pos hw]
    exact iff_of_false (fun h => nomatch h) (fun h => hw h.1)

/-- The bits a mask keeps. -/
theorem extractLsb'_of_and_eq {c m v : BitVec 32} (h : c &&& m = v) (start len : Nat)
    (hm : m.extractLsb' start len = .allOnes len) : c.extractLsb' start len = v.extractLsb' start len := by
  rw [← h, BitVec.extractLsb'_and, hm, BitVec.and_allOnes]

/-- A row without fields fixes every bit: only its opcode matches. -/
theorem encode_of_noFields {opc : BitVec 8} {i : Instr} (hi : encode i = 0#32 ++ opc.setWidth 32) {c : BitVec 32}
    (h : c &&& 0xFFFFFFFF = opc.setWidth 32) : encode i = 0#32 ++ c := by
  rw [hi, ← h]
  exact congrArg _ BitVec.and_allOnes

/-- TWENC's row fixes the opcode byte and bits 31:19 (R51). -/
theorem encode_twenc_of_fixed {c : BitVec 32} (h : c &&& 0xFFF800FF = (0x30 : BitVec 8).setWidth 32) :
    encode (.twenc (fieldType c) (fieldBitpad c) (fieldFirst c) (fieldFinal c)) = 0#32 ++ c := by
  have hopc : c.extractLsb' 0 8 = 0x30 := extractLsb'_of_and_eq h 0 8 rfl
  rw [← commandOf_eq_append (extractLsb'_of_and_eq h 19 13 rfl), hopc]
  rfl

/-- HMFIN's row fixes every bit but BITPAD (R51). -/
theorem encode_hmfin_of_fixed {c : BitVec 32} (h : c &&& 0xFFFEFFFF = (0x47 : BitVec 8).setWidth 32) :
    encode (.hmfin (fieldBitpad c)) = 0#32 ++ c := by
  have hopc : c.extractLsb' 0 8 = 0x47 := extractLsb'_of_and_eq h 0 8 rfl
  have htype : fieldType c = 0 := extractLsb'_of_and_eq h 8 8 rfl
  have hflags : c.extractLsb' 17 2 = 0 := extractLsb'_of_and_eq h 17 2 rfl
  have hfirst : fieldFirst c = false := by simpa [fieldFirst] using congrArg (·.getLsbD 0) hflags
  have hfinal : fieldFinal c = false := by simpa [fieldFinal] using congrArg (·.getLsbD 1) hflags
  rw [← commandOf_eq_append (extractLsb'_of_and_eq h 19 13 rfl), hopc, htype, hfirst, hfinal]
  rfl

/-- A value that has a row's fixed bits is the word of the command that the row gives it (R51). -/
theorem encode_build {r : Row} (hr : r ∈ rows) {c : BitVec 32} (h : c &&& r.mask = r.opc.setWidth 32) :
    encode (r.build c) = 0#32 ++ c := by
  fin_cases hr
  iterate 10 exact encode_of_noFields rfl h
  · exact encode_twenc_of_fixed h
  iterate 8 exact encode_of_noFields rfl h
  · exact encode_hmfin_of_fixed h
  · exact encode_of_noFields rfl h

/-- Settles O2: the value is its row's fixed bits and its fields, and so is the command's word. -/
theorem encodeOfDecode : Obligations.EncodeOfDecode := by
  intro w i h
  obtain ⟨hw, r, hr, hm, rfl⟩ := decode_eq_ok_iff.mp h
  calc encode (r.build (w.extractLsb' 0 32))
    _ = 0#32 ++ w.extractLsb' 0 32 := encode_build (List.mem_of_find?_eq_some hr) hm
    _ = w.extractLsb' 32 32 ++ w.extractLsb' 0 32 := by rw [hw]; rfl
    _ = w := BitVec.extractLsb'_append_extractLsb'

/-! ## Decoding the word of a command -/

/-- TWENC's word has its row's fixed bits, whatever its fields. -/
theorem commandOf_and_mask_twenc (opc tag : BitVec 8) (bitpad first final : Bool) :
    (commandOf opc tag bitpad first final).extractLsb' 0 32 &&& 0xFFF800FF = opc.setWidth 32 := by
  ext i hi
  rw [BitVec.getElem_and, BitVec.getElem_extractLsb', Nat.zero_add, getLsbD_commandOf _ _ _ _ _ (by omega)]
  interval_cases i <;> simp

/-- TWENC's row of the opcode map (R51). -/
def twencRow : Row := ⟨0x30, 0xFFF800FF, fun c => .twenc (fieldType c) (fieldBitpad c) (fieldFirst c) (fieldFinal c)⟩

/-- TWENC's word gives its fields back, at every value of them. -/
theorem decode_commandOf_twenc (tag : BitVec 8) (bitpad first final : Bool) :
    decode (commandOf 0x30 tag bitpad first final) = .ok (.twenc tag bitpad first final) := by
  obtain ⟨hopc, htype, hbitpad, hfirst, hfinal⟩ := commandOf_fields 0x30 tag bitpad first final rfl
  refine decode_eq_ok_iff.mpr ⟨commandOf_upper _ _ _ _ _, twencRow, ?_, commandOf_and_mask_twenc 0x30 _ _ _ _, ?_⟩
  · rw [hopc]
    rfl
  · simp only [twencRow, htype, hbitpad, hfirst, hfinal]

/-- Settles O1: only TWENC has more words than can be listed. -/
theorem decodeOfEncode : Obligations.DecodeOfEncode := by
  intro i
  cases i with
  | twenc tag bitpad first final => exact decode_commandOf_twenc tag bitpad first final
  | hmfin bitpad => cases bitpad <;> rfl
  | _ => rfl

/-- Settles O4, by running the decoder on each word. -/
theorem commandWordsOfTheSpec : Obligations.CommandWordsOfTheSpec := by
  unfold Obligations.CommandWordsOfTheSpec
  decide

end Sys2Proof
end

section
/-! PROOF. The host's script as a program: no command reads it, so the moves of a pseudo-command lead from one state to
another whatever moves come after them, and scripts are taken apart where they were put together (R55, R163). -/

namespace Sys2Proof.Machine

/-! ## No command reads the host's script -/

/-- The state with other moves still to come (log 3). -/
def setScript (l : List HostMove) (s : State) : State := { s with script := l }

theorem ensureConfig_setScript (l : List HostMove) (s : State) :
    ensureConfig (setScript l s) = setScript l (ensureConfig s) := by
  cases h : s.cfgdone with
  | true => rw [ensureConfig_done h, ensureConfig_done (s := setScript l s) h]
  | false =>
    rw [ensureConfig_due h, ensureConfig_due (s := setScript l s) h]
    rfl

theorem outputBlocks_setScript (n : Nat) (l : List HostMove) (s : State) :
    ∀ k, outputBlocks n k (setScript l s) = (setScript l (outputBlocks n k s).1, (outputBlocks n k s).2)
  | 0 => rfl
  | k + 1 => by
    rw [outputBlocks_succ, outputBlocks_setScript n l s k]
    rfl

theorem optionalEffect_setScript (tag : BitVec 6) (l : List HostMove) (s : State) :
    optionalEffect tag (setScript l s) = setScript l (optionalEffect tag s) := by
  change setPhase .pre (optPass tag (ensureConfig (setScript l s))) = _
  rw [ensureConfig_setScript]
  rfl

theorem messageBlock_setScript (final bitpad : Bool) (n : Nat) (m : List Word) (after : Phase) (l : List HostMove)
    (s : State) :
    messageBlock final bitpad n m after (setScript l s) = setScript l (messageBlock final bitpad n m after s) := by
  rw [messageBlock_eq, ensureConfig_setScript]
  rfl

theorem effectOf_setScript (i : Instr) (l : List HostMove) (s : State) :
    effectOf i (setScript l s) = setScript l (effectOf i s) := by
  cases i with
  | hprs | hpk | hkdf | hnon => exact optionalEffect_setScript _ l s
  | hmblk | hmfin => exact messageBlock_setScript _ _ _ _ _ l s
  | hout =>
    change houtEffect _ = setScript l (houtEffect s)
    rw [houtEffect_eq, outputBlocks_setScript]
    rfl
  | _ => rfl

/-- A command does the same whatever moves come after it. -/
theorem exec_setScript {i : Instr} {s t : State} (h : exec i s = .next t) (l : List HostMove) :
    exec i (setScript l s) = .next (setScript l t) := by
  obtain ⟨t', ht', rfl⟩ := exec_related (R := fun a b => b = setScript l a) (s' := setScript l s) h rfl
    (by cases i <;> rfl) rfl (fun _ => rfl) (fun _ => effectOf_setScript i l s)
  exact ht'

/-! ## What moves lead to -/

/-- The moves `l` lead from `s` to `t`, whatever moves come after them. -/
def Leads (l : List HostMove) (s t : State) : Prop :=
  ∀ rest, core.run l.length (setScript (l ++ rest) s) = .next (setScript rest t)

theorem Leads.nil (s : State) : Leads [] s s := fun _ => rfl

theorem Leads.append {l l' : List HostMove} {s t u : State} (h : Leads l s t) (h' : Leads l' t u) :
    Leads (l ++ l') s u := by
  intro rest
  rw [List.append_assoc, List.length_append, run_add (h _)]
  exact h' rest

/-- The whole script of a state leads to where the run ends. -/
theorem Leads.run {l : List HostMove} {s t : State} (h : Leads l s t) (hs : s.script = l) :
    core.run s.script.length s = .next (setScript [] t) := by
  have := h []
  rw [List.append_nil, ← hs] at this
  exact this

/-- A write of a register other than CMD. -/
theorem leads_write {n : Nat} (hn : n ≠ 0) (v : Word) (s : State) :
    Leads [.write n v] s (writeReg (regOf n) v s) := by
  intro rest
  have hstep := step_write (s := setScript (.write n v :: rest) s) rfl hn
  refine (run_succ hstep 0).trans ?_
  change Host.Outcome.next (writeReg (regOf n) v (setScript rest s)) = _
  cases regOf n <;> rfl

/-- The state after reads that returned the given values (R161). -/
def recordReads (vs : List Word) (s : State) : State := { s with reads := s.reads ++ vs }

/-- A read of a register. -/
theorem leads_read (n : Nat) (s : State) : Leads [.read n] s (recordReads [readReg (regOf n) s] s) := by
  intro rest
  have hstep := step_read (s := setScript (.read n :: rest) s) rfl
  exact (run_succ hstep 0).trans
    (congrArg (fun v => Host.Outcome.next (setScript rest (recordReads [v] s))) (readReg_script (regOf n) s rest))

/-- A command. -/
theorem leads_issue {i : Instr} {s t : State} (h : exec i s = .next t) : Leads [issue i] s t := by
  intro rest
  have hstep := step_command (s := setScript ([issue i] ++ rest) s) rfl
  rw [writeCmd_ok (decodeOfEncode i)] at hstep
  exact run_succ (hstep.trans (exec_setScript h rest)) 0

/-- Words written to consecutive registers, in two parts (R55). -/
theorem writeWords_append : ∀ (n : Nat) (ws vs : List Word),
    writeWords n (ws ++ vs) = writeWords n ws ++ writeWords (n + ws.length) vs
  | _, [], _ => rfl
  | n, w :: ws, vs => by
    rw [List.cons_append, writeWords, writeWords_append (n + 1) ws vs, List.length_cons, Nat.add_right_comm]
    rfl

/-- A bank is written from its first word on, one word at a time. -/
theorem writeLow_concat {n : Nat} (bank : Vector Word n) {ws : List Word} (w : Word) (h : ws.length < n) :
    writeLow bank (ws ++ [w]) = (writeLow bank ws).set ws.length w := by
  apply Vector.toList_inj.mp
  rw [Vector.toList_set, toList_writeLow _ _ (by simp; omega), toList_writeLow _ _ (Nat.le_of_lt h),
    List.set_append_right _ _ (Nat.le_refl _), Nat.sub_self,
    List.drop_eq_getElem_cons (l := bank.toList) (i := ws.length) (by simpa using h), List.set_cons_zero,
    List.length_append, List.length_singleton, List.append_assoc, List.singleton_append]

theorem writeLow_nil {n : Nat} (bank : Vector Word n) : writeLow bank [] = bank :=
  Vector.toList_inj.mp (toList_writeLow bank [] (Nat.zero_le n))

/-- `KEY <- ws`, on the words a block has (R11, R55). -/
def loadKey (ws : List Word) (s : State) : State := { s with key := writeLow s.key ws }

/-- `BLK <- ws`, on the words a block has (R13, R55). -/
def loadBlk (ws : List Word) (s : State) : State := { s with blk := writeLow s.blk ws }

theorem keyWords_loadKey {s : State} (h : LegalCount (blockWords s)) {ws : List Word} (hw : ws.length = blockWords s) :
    keyWords (loadKey ws s) = ws := take_writeLow_of_length s.key hw (legalCount_le h)

theorem blkWords_loadBlk {s : State} (h : LegalCount (blockWords s)) {ws : List Word} (hw : ws.length = blockWords s) :
    blkWords (loadBlk ws s) = ws := take_writeLow_of_length s.blk hw (legalCount_le h)

theorem leads_loadKey (s : State) {ws : List Word} (h : ws.length ≤ 16) :
    Leads (writeWords 0x20 ws) s (loadKey ws s) := by
  induction ws using List.reverseRecOn with
  | nil =>
    rw [loadKey, writeLow_nil]
    exact Leads.nil s
  | append_singleton ws w ih =>
    rw [List.length_append, List.length_singleton] at h
    have hw := leads_write (n := 0x20 + ws.length) (by omega) w (loadKey ws s)
    rw [regOf_key ⟨ws.length, h⟩] at hw
    rw [writeWords_append, loadKey, writeLow_concat _ _ h]
    exact (ih (by omega)).append hw

theorem leads_loadBlk (s : State) {ws : List Word} (h : ws.length ≤ 16) :
    Leads (writeWords 0x30 ws) s (loadBlk ws s) := by
  intro rest
  obtain ⟨b, hb, hl⟩ := run_writeWords_blk ws 0 (s := setScript (writeWords 0x30 ws ++ rest) s) (by omega) rfl
  have hbank : b = writeLow s.blk ws := by
    apply Vector.toList_inj.mp
    rw [hl, toList_writeLow _ _ h, Nat.zero_add]
    rfl
  rw [length_writeWords, hb, hbank]
  rfl

/-- TWK[0] and TWK[1]. -/
theorem leads_setTweak (t0 t1 : Word) (s : State) :
    Leads (writeWords 0x10 [t0, t1]) s (setTweak (t0, t1) s) :=
  (leads_write (n := 0x10) (by omega) t0 s).append (leads_write (n := 0x11) (by omega) t1 _)

/-- A register's value does not depend on what was read before. -/
theorem readReg_recordReads (r : Reg) (vs : List Word) (s : State) : readReg r (recordReads vs s) = readReg r s := by
  cases r <;> rfl

theorem recordReads_recordReads (us vs : List Word) (s : State) :
    recordReads vs (recordReads us s) = recordReads (us ++ vs) s :=
  congrArg (fun ws => { s with reads := ws }) (List.append_assoc s.reads us vs)

/-- Reads of n registers from a number on record their values (R55, R161). -/
theorem leads_readWords (r : Nat) (s : State) (n : Nat) :
    Leads (readWords r n) s (recordReads ((List.range n).map fun i => readReg (regOf (r + i)) s) s) := by
  induction n with
  | zero =>
    have h : recordReads [] s = s := congrArg (fun vs => { s with reads := vs }) (List.append_nil s.reads)
    exact h.symm ▸ Leads.nil s
  | succ n ih =>
    have h := ih.append (leads_read (r + n) _)
    rw [readReg_recordReads, recordReads_recordReads] at h
    rw [readWords, List.range_succ, List.map_append, List.map_append]
    exact h

end Sys2Proof.Machine
end

section
/-! PROOF. A byte string written to BLK and its length to ILEN, and the command on it (O60). -/

namespace Sys2Proof.Machine

/-! ## The words and bytes of a padded block -/

/-- A padded block's bytes begin with the string (R44, R46). -/
theorem take_bytesOf_blockOf {n : Nat} {x : List Byte} (h : x.length ≤ 8 * n) :
    (bytesOf (blockOf n x)).take x.length = x := by
  have hpad : blockOf n x = blockOf n (x ++ List.replicate (8 * n - x.length) 0) := by
    have hlen : 8 * n - (x ++ List.replicate (8 * n - x.length) (0 : Byte)).length = 0 := by simp; omega
    rw [blockOf, blockOf, hlen, List.replicate_zero, List.append_nil]
  rw [hpad, bytesOf_blockOf (by simp; omega), List.take_left]

/-- A string of at most a block, padded to all of BLK, begins with its padded block (R44, R55). -/
theorem take_blockOf {n nw : Nat} (x : List Byte) (h : nw ≤ n) : (blockOf n x).take nw = blockOf nw x := by
  refine List.ext_getElem (by simpa using h) fun j hj hj' => eq_of_wordByte_eq fun k hk => ?_
  rw [length_blockOf] at hj'
  calc wordByte ((blockOf n x).take nw)[j] k
    _ = wordByte ((blockOf n x).getD j 0) k := by rw [List.getElem_take, List.getD_eq_getElem]
    _ = wordByte ((blockOf nw x).getD j 0) k := by
      rw [wordByte_getD_blockOf x (by omega) hk, wordByte_getD_blockOf x hj' hk]
    _ = wordByte (blockOf nw x)[j] k := by rw [List.getD_eq_getElem]

/-! ## An input in BLK and ILEN -/

/-- `BLK <- bytes(x)` (R55). -/
def withBlock (x : List Byte) (s : State) : State := loadBlk (blockOf 16 x) s

/-- `BLK <- bytes(x)` and `ILEN <- len(x)` (R56, R57). -/
def withInput (x : List Byte) (s : State) : State := { withBlock x s with ilen := BitVec.ofNat 64 x.length }

theorem toList_withBlock_blk (x : List Byte) (s : State) : (withBlock x s).blk.toList = blockOf 16 x := by
  rw [withBlock, loadBlk, toList_writeLow _ _ (by simp), length_blockOf, List.drop_of_length_le (by simp),
    List.append_nil]

theorem leads_writeBlk (x : List Byte) (s : State) : Leads (writeBlk x) s (withBlock x s) :=
  leads_loadBlk s (by simp)

theorem leads_writeInput (x : List Byte) (s : State) :
    Leads (writeBlk x ++ [HostMove.write 0x0A (BitVec.ofNat 64 x.length)]) s (withInput x s) :=
  (leads_writeBlk x s).append (leads_write (n := 0x0A) (by omega) _ _)

theorem blkWords_withBlock (x : List Byte) {s : State} (h : LegalCount (blockWords s)) :
    blkWords (withBlock x s) = blockOf (blockWords s) x := by
  rw [blkWords, toList_withBlock_blk]
  exact take_blockOf x (legalCount_le h)

theorem inBlock_withInput {x : List Byte} (hx : x.length ≤ 128) (s : State) :
    inBlock (withInput x s) x.length = blockOf (blockWords s) x := by
  have hbytes : blkBytes (withInput x s) x.length = x := by
    change (bytesOf (withBlock x s).blk.toList).take x.length = x
    rw [toList_withBlock_blk]
    exact take_bytesOf_blockOf hx
  exact congrArg (blockOf (blockWords s)) hbytes

theorem toNat_withInput_ilen {x : List Byte} (hx : x.length < 2 ^ 64) (s : State) :
    (withInput x s).ilen.toNat = x.length := by
  rw [withInput, BitVec.toNat_ofNat, Nat.mod_eq_of_lt hx]

/-- A block is at most all of BLK (R2, R13). -/
theorem blockBytes_le {s : State} (h : LegalCount (blockWords s)) : blockBytes s ≤ 128 := by
  rw [blockBytes_eq]
  have := legalCount_le h
  omega

theorem LegalBlockWords.legalCount {s : State} (h : LegalBlockWords s.cfgnw) : LegalCount (blockWords s) := by
  rcases h with h | h | h <;> simp [LegalCount, blockWords, h]

theorem Runnable.legalCount {s : State} (h : Runnable s) : LegalCount (Machine.blockWords s) :=
  LegalBlockWords.legalCount h.blockWords

/-- HOPT's moves lead to what its command does on the input. -/
theorem leads_hopt {nb : Nat} {c : OptionalCommand} {x : List Byte} {l : List HostMove} {s t : State}
    (h : hoptScript nb c x = some l) (he : exec (optionalInstr c) (withInput x s) = .next t) : Leads l s t := by
  obtain ⟨-, rfl⟩ := hoptScript_eq_some.mp h
  have := (leads_writeInput x s).append (leads_issue he)
  rwa [List.append_assoc] at this

/-- Settles O60: the moves before the command write the input, and the command does not read what is left of the script. -/
theorem hoptIssuesItsCommandOnTheInput : Obligations.HoptIssuesItsCommandOnTheInput := by
  refine ⟨fun nb c x => hoptScript_eq_none, fun s c i x hci hnw hs => ?_⟩
  have hi : optionalInstr c = i := by
    simp only [List.mem_cons, Prod.mk.injEq, List.not_mem_nil, or_false] at hci
    rcases hci with ⟨rfl, rfl⟩ | ⟨rfl, rfl⟩ | ⟨rfl, rfl⟩ | ⟨rfl, rfl⟩ | ⟨rfl, rfl⟩ <;> rfl
  have hx : x.length ≤ 128 := Nat.le_trans (hoptScript_eq_some.mp hs).1 (blockBytes_le hnw.legalCount)
  obtain ⟨t, he⟩ := exec_answers i (withInput x s)
  refine ⟨setScript [] (withInput x s), toList_withBlock_blk x s, toNat_withInput_ilen (by omega) s,
    inBlock_withInput hx s, rfl, rfl, ?_⟩
  exact ((leads_hopt hs (hi ▸ he)).run rfl).trans (exec_setScript he []).symm

end Sys2Proof.Machine
end

section
/-! PROOF. The pseudo-commands of the cipher and the chaining controller (O48, O49): each command of their scripts runs,
since nothing in them faults or starts a hash, and the result is read from RES. -/

namespace Sys2Proof.Machine

/-! ## The low-level commands run outside a hash -/

/-- The checks that CINIT, UINIT, UINITZ and UUPD share (R137). -/
theorem lowLevel_runs {s : State} (hc : s.cfgv = true) (ho : OutsideHash s) :
    firstRaised [(!s.cfgv, .sequenceError), (!lowLevelPhase s, .sequenceError)] = none := by
  rw [firstRaised_cons_eq_none, firstRaised_singleton_eq_none, Bool.not_eq_false', Bool.not_eq_false', lowLevelPhase_iff]
  exact ⟨hc, ho⟩

/-- CENC and CDEC need a keyed cipher too (R71, R72). -/
theorem lowLevel_keyed_runs {s : State} (hc : s.cfgv = true) (ho : OutsideHash s) (hk : s.ckeyed = true) :
    firstRaised [(!s.cfgv, .sequenceError), (!lowLevelPhase s, .sequenceError), (!s.ckeyed, .sequenceError)] = none := by
  rw [firstRaised_cons_eq_none, firstRaised_cons_eq_none, firstRaised_singleton_eq_none, Bool.not_eq_false',
    Bool.not_eq_false', Bool.not_eq_false', lowLevelPhase_iff]
  exact ⟨hc, ho, hk⟩

theorem exec_uout {s : State} (hr : Runnable s) : exec .uout s = .next (uoutEffect s) := by
  refine command_runs hr.unfaulted ?_
  rw [firstRaised_singleton_eq_none, hr.configured]
  rfl

/-- Reads of RES[0..n−1] return its words (R14, R59). -/
theorem leads_readResult (s : State) {n : Nat} (h : n ≤ 16) :
    Leads (readWords 0x40 n) s (recordReads (s.res.toList.take n) s) := by
  have hwords : (List.range n).map (fun i => readReg (regOf (0x40 + i)) s) = s.res.toList.take n := by
    refine List.ext_getElem (by simp [h]) fun i hi hi' => ?_
    rw [List.length_map, List.length_range] at hi
    rw [List.getElem_map, List.getElem_range, List.getElem_take, regOf_res ⟨i, by omega⟩]
    rfl
  exact hwords ▸ leads_readWords 0x40 s n

/-! ## ENCRYPT and DECRYPT -/

/-- The engine keyed with a key and a tweak, and a block loaded (R59). -/
def readyCipher (k : List Word) (t0 t1 : Word) (x : List Word) (s : State) : State :=
  loadBlk x (cinitEffect (setTweak (t0, t1) (loadKey k s)))

section
variable {s : State} (hr : Runnable s) (ho : OutsideHash s) {k x : List Word} (t0 t1 : Word)
  (hk : k.length = blockWords s) (hx : x.length = blockWords s)
include hr hk

theorem ksWords_readyCipher : ksWords (readyCipher k t0 t1 x s) = keySchedule k := by
  have hle := legalCount_le hr.legalCount
  have hkey : keyWords (setTweak (t0, t1) (loadKey k s)) = k := keyWords_loadKey hr.legalCount hk
  change (writeLow s.ks (keySchedule (keyWords (setTweak (t0, t1) (loadKey k s))))).toList.take (blockWords s + 1) = _
  rw [hkey]
  exact take_writeLow_of_length s.ks (by rw [length_keySchedule, hk]) (by omega)

include ho hx

theorem leads_readyCipher :
    Leads (writeWords 0x20 k ++ writeWords 0x10 [t0, t1] ++ [issue .cinit] ++ writeWords 0x30 x) s
      (readyCipher k t0 t1 x s) := by
  have hle := legalCount_le hr.legalCount
  have hcinit : exec .cinit (setTweak (t0, t1) (loadKey k s)) = .next (cinitEffect (setTweak (t0, t1) (loadKey k s))) :=
    command_runs hr.unfaulted (lowLevel_runs hr.configured ho)
  exact (((leads_loadKey s (by omega)).append (leads_setTweak t0 t1 _)).append (leads_issue hcinit)).append
    (leads_loadBlk _ (by omega))

/-- The moves ENCRYPT and DECRYPT share, with a command `i` that writes RES with `f` of the schedules and BLK, return `f`
of the schedules of the key and the tweak and of the block. -/
theorem leads_cipherScript {i : Instr} {f : Nat → Nat → List Word → Vector Word 3 → List Word → List Word}
    (hi : ∀ u, exec i u =
      command [(!u.cfgv, .sequenceError), (!lowLevelPhase u, .sequenceError), (!u.ckeyed, .sequenceError)]
        (fun u => setResult (f (blockWords u) (roundCount u) (ksWords u) u.ts (blkWords u)) u) u)
    (hf : ∀ nr ks ts, (f (blockWords s) nr ks ts x).length = blockWords s) :
    ∃ t, Leads (writeWords 0x20 k ++ writeWords 0x10 [t0, t1] ++ [issue .cinit] ++ writeWords 0x30 x ++ [issue i] ++
        readWords 0x40 (blockWords s)) s t ∧
      t.reads = s.reads ++ f (blockWords s) (roundCount s) (keySchedule k) (tweakSchedule t0 t1) x := by
  have hl := hr.legalCount
  have hready : Runnable (readyCipher k t0 t1 x s) := ⟨hr.unfaulted, hr.configured, hr.blockWords⟩
  have hblk : blkWords (readyCipher k t0 t1 x s) = x := blkWords_loadBlk (s := cinitEffect _) hl hx
  have hcommand := (hi (readyCipher k t0 t1 x s)).trans
    (command_runs hready.unfaulted (lowLevel_keyed_runs hready.configured ho rfl))
  rw [ksWords_readyCipher hr t0 t1 hk, hblk] at hcommand
  refine ⟨_, ((leads_readyCipher hr ho t0 t1 hk hx).append (leads_issue hcommand)).append
    (leads_readResult _ (legalCount_le hl)), ?_⟩
  exact congrArg (s.reads ++ ·) (take_writeLow_of_length s.res (hf _ _ _) (legalCount_le hl))

end

/-- Settles O48: the two scripts differ in the command that writes RES. -/
theorem encryptAndDecryptPseudoCommands : Obligations.EncryptAndDecryptPseudoCommands := by
  intro s k x t0 t1 hr ho hk hx
  refine ⟨fun hs => ?_, fun hs => ?_⟩
  · obtain ⟨t, ht, hreads⟩ := leads_cipherScript hr ho t0 t1 hk hx (i := .cenc) (f := encrypt) (fun _ => rfl)
      fun nr ks ts => length_encrypt hr.legalCount nr ks ts hx
    exact ⟨_, ht.run hs, hreads⟩
  · obtain ⟨t, ht, hreads⟩ := leads_cipherScript hr ho t0 t1 hk hx (i := .cdec) (f := decrypt) (fun _ => rfl)
      fun nr ks ts => length_decrypt hr.legalCount nr ks ts hx
    exact ⟨_, ht.run hs, hreads⟩

/-! ## UBI -/

/-- The chaining value after one block under its tweak (R82, R86). -/
def ubiStep (nw nr : Nat) (c : List Word) (b : List Word × Word × Word) : List Word :=
  feedForward (encrypt nw nr (keySchedule c) (tweakSchedule b.2.1 b.2.2) b.1) b.1

theorem length_ubiStep {nw : Nat} (h : LegalCount nw) (nr : Nat) (c : List Word) {b : List Word × Word × Word}
    (hb : b.1.length = nw) : (ubiStep nw nr c b).length = nw := by
  rw [ubiStep, length_feedForward, length_encrypt h _ _ _ hb, hb, Nat.min_self]

/-- A state during UBI from `s`: still outside a hash, under the same configuration, nothing read yet, and `c` in CV. -/
def Chaining (s : State) (c : List Word) (t : State) : Prop :=
  Runnable t ∧ OutsideHash t ∧ ConfigurationKept s t ∧ t.reads = s.reads ∧ cvWords t = c

section
variable {s t : State} {c : List Word} (h : Chaining s c t)
include h

theorem Chaining.blockWords_eq : blockWords t = blockWords s := by
  obtain ⟨-, -, hc, -, -⟩ := h
  exact congrArg BitVec.toNat hc.cfgnw

theorem Chaining.roundCount_eq : roundCount t = roundCount s := by
  obtain ⟨-, -, hc, -, -⟩ := h
  exact congrArg BitVec.toNat hc.cfgnr

theorem Chaining.legalCount : LegalCount (blockWords t) := by
  obtain ⟨hr, -, -, -, -⟩ := h
  exact hr.legalCount

/-- A write of the used words of CV (R34). -/
theorem Chaining.setChaining {g : List Word} (hg : g.length = blockWords t) :
    Chaining s g (Machine.setChaining g t) := by
  have hchain := take_writeLow_of_length t.cv hg (legalCount_le h.legalCount)
  obtain ⟨hr, ho, hc, hreads, -⟩ := h
  exact ⟨⟨hr.unfaulted, hr.configured, hr.blockWords⟩, ho, ⟨hc.cfgv, hc.cfgnw, hc.cfgnr⟩, hreads, hchain⟩

/-- UUPD chains the block under its tweak (R83). -/
theorem leads_ubiBlock {b : List Word × Word × Word} (hb : b.1.length = blockWords s) :
    ∃ u, Leads (ubiBlockScript b) t u ∧ Chaining s (ubiStep (blockWords s) (roundCount s) c b) u := by
  rw [← h.blockWords_eq] at hb ⊢
  rw [← h.roundCount_eq]
  have hl := h.legalCount
  have hle := legalCount_le hl
  obtain ⟨hr, ho, hc, hreads, rfl⟩ := h
  have hblk : blkWords (setTweak (b.2.1, b.2.2) (loadBlk b.1 t)) = b.1 := blkWords_loadBlk hl hb
  have huupd : exec .uupd (setTweak (b.2.1, b.2.2) (loadBlk b.1 t)) = .next (uupdEffect _) :=
    command_runs hr.unfaulted (lowLevel_runs hr.configured ho)
  have hkeyed : Chaining s (cvWords t) (setSchedule (keySchedule (cvWords t)) (tweakSchedule b.2.1 b.2.2)
      (setTweak (b.2.1, b.2.2) (loadBlk b.1 t))) :=
    ⟨⟨hr.unfaulted, hr.configured, hr.blockWords⟩, ho, ⟨hc.cfgv, hc.cfgnw, hc.cfgnr⟩, hreads, rfl⟩
  refine ⟨_, ((leads_loadBlk t (by omega)).append (leads_setTweak _ _ _)).append (leads_issue huupd), ?_⟩
  rw [uupdEffect, hblk]
  exact hkeyed.setChaining (length_ubiStep hl (roundCount t) (cvWords t) hb)

end

/-- The blocks are chained one after the other (R86). -/
theorem leads_ubiBlocks {s : State} : ∀ {bs : List (List Word × Word × Word)} {t : State} {c : List Word},
    Chaining s c t → (∀ b ∈ bs, b.1.length = blockWords s) →
    ∃ u, Leads (bs.flatMap ubiBlockScript) t u ∧ Chaining s (bs.foldl (ubiStep (blockWords s) (roundCount s)) c) u
  | [], t, _, h, _ => ⟨t, Leads.nil t, h⟩
  | b :: bs, t, c, h, hlen => by
    obtain ⟨hb, hbs⟩ := List.forall_mem_cons.mp hlen
    obtain ⟨u, hu, h'⟩ := leads_ubiBlock h hb
    obtain ⟨v, hv, h''⟩ := leads_ubiBlocks h' hbs
    exact ⟨v, hu.append hv, h''⟩

/-- UBI's blocks and its result (R59). -/
theorem leads_ubiRest {s t : State} {c : List Word} (h : Chaining s c t) {bs : List (List Word × Word × Word)}
    (hbs : ∀ b ∈ bs, b.1.length = blockWords s) :
    ∃ u, Leads (ubiRestScript (blockWords s) bs) t u ∧
      u.reads = s.reads ++ bs.foldl (ubiStep (blockWords s) (roundCount s)) c := by
  obtain ⟨u, hu, h'⟩ := leads_ubiBlocks h hbs
  have hlen := length_cvWords h'.legalCount
  have hle := legalCount_le h'.legalCount
  rw [h'.blockWords_eq] at hlen hle
  obtain ⟨hr, -, -, hreads, hchain⟩ := h'
  refine ⟨_, (hu.append (leads_issue (exec_uout hr))).append (leads_readResult _ hle), ?_⟩
  change u.reads ++ (writeLow u.res (cvWords u)).toList.take (blockWords s) = _
  rw [take_writeLow_of_length u.res hlen hle, hreads, hchain]

/-- A form of UBI whose first command sets the chaining value to G, BLK holding it (R59, R80, R81). -/
theorem leads_ubi {s : State} (hr : Runnable s) (ho : OutsideHash s) {i : Instr} {g : List Word}
    (hg : g.length = blockWords s)
    (hi : exec i (loadBlk g s) =
      command [(!s.cfgv, .sequenceError), (!lowLevelPhase s, .sequenceError)] (setChaining g) (loadBlk g s))
    {bs : List (List Word × Word × Word)} (hbs : ∀ b ∈ bs, b.1.length = blockWords s) :
    ∃ t, Leads (writeWords 0x30 g ++ [issue i] ++ ubiRestScript (blockWords s) bs) s t ∧
      t.reads = s.reads ++ bs.foldl (ubiStep (blockWords s) (roundCount s)) g := by
  have hle := legalCount_le hr.legalCount
  have hload : Chaining s (cvWords s) (loadBlk g s) :=
    ⟨⟨hr.unfaulted, hr.configured, hr.blockWords⟩, ho, ⟨rfl, rfl, rfl⟩, rfl, rfl⟩
  have hi := hi.trans (command_runs hr.unfaulted (lowLevel_runs hr.configured ho))
  obtain ⟨t, ht, hreads⟩ := leads_ubiRest (hload.setChaining hg) hbs
  exact ⟨t, ((leads_loadBlk s (by omega)).append (leads_issue hi)).append ht, hreads⟩

/-- Settles O49: the two forms differ in the command that sets the chaining value. -/
theorem ubiPseudoCommand : Obligations.UbiPseudoCommand := by
  intro s g bs hr ho hg hbs hs
  rcases hs with hs | ⟨hs, rfl⟩
  · have huinit : exec .uinit (loadBlk g s) = command _ (setChaining (blkWords (loadBlk g s))) (loadBlk g s) := rfl
    rw [blkWords_loadBlk hr.legalCount hg] at huinit
    obtain ⟨t, ht, hreads⟩ := leads_ubi hr ho hg huinit hbs
    exact ⟨_, ht.run hs, hreads⟩
  · obtain ⟨t, ht, hreads⟩ := leads_ubi hr ho hg (i := .uinitz) rfl hbs
    exact ⟨_, ht.run hs, hreads⟩

end Sys2Proof.Machine
end

section
/-! PROOF. HASH computes the function Hash (O50), up to its message. While the script is made, the chaining value that the
engine has once the configuration pass is made runs through the steps of R117, whichever command it is that makes the pass. -/

namespace Sys2Proof.Machine

/-! ## A state during HASH -/

/-- A state during HASH from `s`: unfaulted, under the same configuration, the output length latched, nothing read yet. -/
def Hashing (s : State) (outBits : Word) (t : State) : Prop :=
  Runnable t ∧ ConfigurationKept s t ∧ t.houtlen = outBits ∧ t.reads = s.reads

/-- CV after the configuration pass, if it is still due (R103). -/
def configuredChain (t : State) : List Word :=
  if t.cfgdone then cvWords t else hashConfig (blockWords t) (roundCount t) t.houtlen (cvWords t)

/-- A state during HASH from `s` with the chaining value `g` after `n` bytes of the message. -/
def Absorbing (s : State) (outBits : Word) (g : List Word) (n : Nat) (t : State) : Prop :=
  Hashing s outBits t ∧ configuredChain t = g ∧ t.bpos = BitVec.ofNat 64 n ∧ t.firstpend = decide (n = 0)

section
variable {s t : State} {outBits : Word} (h : Hashing s outBits t)
include h

theorem Hashing.runnable : Runnable t := by
  obtain ⟨hr, -, -, -⟩ := h
  exact hr

theorem Hashing.latched : t.houtlen = outBits := by
  obtain ⟨-, -, hl, -⟩ := h
  exact hl

theorem Hashing.blockWords_eq : blockWords t = blockWords s := by
  obtain ⟨-, hc, -, -⟩ := h
  exact congrArg BitVec.toNat hc.cfgnw

theorem Hashing.blockBytes_eq : blockBytes t = blockBytes s := congrArg (8 * ·) h.blockWords_eq

theorem Hashing.roundCount_eq : roundCount t = roundCount s := by
  obtain ⟨-, hc, -, -⟩ := h
  exact congrArg BitVec.toNat hc.cfgnr

theorem Hashing.legalCount : LegalCount (blockWords s) := h.blockWords_eq ▸ h.runnable.legalCount

/-- A hash step keeps what HASH rests on. -/
theorem Hashing.of_onlyHashFields {u : State} (e : OnlyHashFields t u) : Hashing s outBits u := by
  obtain ⟨hr, hc, hl, hreads⟩ := h
  have hcfg := e.configurationKept
  refine ⟨⟨?_, hcfg.cfgv.trans hr.configured, hcfg.cfgnw ▸ hr.blockWords⟩,
    ⟨hcfg.cfgv.trans hc.cfgv, hcfg.cfgnw.trans hc.cfgnw, hcfg.cfgnr.trans hc.cfgnr⟩, ?_, ?_⟩
  · rw [e.keeps State.fault fun _ _ => rfl, hr.unfaulted]
  · rw [e.keeps State.houtlen fun _ _ => rfl, hl]
  · rw [e.keeps State.reads fun _ _ => rfl, hreads]

/-- So does a write of BLK and ILEN. -/
theorem Hashing.setInput (b : Vector Word 16) (v : Word) : Hashing s outBits { t with blk := b, ilen := v } := by
  obtain ⟨hr, hc, hl, hreads⟩ := h
  exact ⟨⟨hr.unfaulted, hr.configured, hr.blockWords⟩, ⟨hc.cfgv, hc.cfgnw, hc.cfgnr⟩, hl, hreads⟩

theorem Hashing.withBlock (x : List Byte) : Hashing s outBits (withBlock x t) := h.setInput _ t.ilen

theorem Hashing.withInput (x : List Byte) : Hashing s outBits (withInput x t) := h.setInput _ _

end

theorem Absorbing.hashing {s t : State} {outBits : Word} {g : List Word} {n : Nat} (h : Absorbing s outBits g n t) :
    Hashing s outBits t := by
  obtain ⟨hh, -, -, -⟩ := h
  exact hh

theorem Absorbing.toNat_bpos {s t : State} {outBits : Word} {g : List Word} {n : Nat} (h : Absorbing s outBits g n t)
    (hn : n < 2 ^ 64) : t.bpos.toNat = n := by
  obtain ⟨-, -, hbpos, -⟩ := h
  rw [hbpos, BitVec.toNat_ofNat, Nat.mod_eq_of_lt hn]

theorem configuredChain_done {t : State} (h : t.cfgdone = true) : configuredChain t = cvWords t := if_pos h

theorem configuredChain_due {t : State} (h : t.cfgdone = false) :
    configuredChain t = hashConfig (blockWords t) (roundCount t) t.houtlen (cvWords t) := if_neg (Bool.eq_false_iff.mp h)

/-! ## The passes -/

theorem ensureConfig_onlyHashFields (s : State) : OnlyHashFields s (ensureConfig s) := by
  obtain ⟨cb, t0, t1, ks, ts, ck, cv, cd, ph, lt, e⟩ := ensureConfig_frame s
  rw [e]
  rfl

theorem inBlock_ensureConfig (s : State) (n : Nat) : inBlock (ensureConfig s) n = inBlock s n :=
  (ensureConfig_onlyHashFields s).keeps (inBlock · n) fun _ _ => rfl

/-- A pass leaves R117's Step of the chaining value it finds. -/
theorem cvWords_pass {s : State} (h : LegalCount (blockWords s)) (final first : Bool) (type : BitVec 6) (bitpad : Bool)
    (pos : Word) {m : List Word} (hm : m.length = blockWords s) :
    cvWords (pass final first type bitpad pos m s) =
      hashStep (blockWords s) (roundCount s) (cvWords s) final first type bitpad pos m :=
  cvWords_afterPass h _ _ _ (length_hashStep h _ _ _ _ _ _ _ hm)

theorem cvWords_ensureConfig {s : State} (h : LegalCount (blockWords s)) :
    cvWords (ensureConfig s) = configuredChain s := by
  rcases ensureConfig_cases s with ⟨hd, e⟩ | ⟨hd, e⟩ <;> rw [e]
  · exact (configuredChain_done hd).symm
  · rw [configuredChain_due hd]
    exact cvWords_pass (s := setConfigBlock (configBytes s.houtlen 0 0 0) s) h _ _ _ _ _ (length_blockOf _ _)

/-! ## HINIT and the key -/

/-- Right after HINIT: no pass made, from the all-zero chaining value (R105, R117). -/
def Started (s : State) (outBits : Word) (t : State) : Prop :=
  Hashing s outBits t ∧ t.phase = .new ∧ t.cfgdone = false ∧ cvWords t = List.replicate (blockWords s) 0 ∧ t.bpos = 0 ∧
    t.firstpend = true

theorem leads_hinit {s : State} (hr : Runnable s) {outBits : Word} (h8 : outBits.toNat % 8 = 0)
    (hcap : ceilDiv outBits.toNat (64 * blockWords s) * blockBytes s ≤ obufMax) :
    ∃ t, Leads [.write 0x08 outBits, .write 0x09 0, issue .hinit] s t ∧ Started s outBits t := by
  have hexec : exec .hinit (setOutput outBits 0 s) = .next (hinitEffect (setOutput outBits 0 s)) :=
    exec_runs (by decide) hr.unfaulted (hinit_runs_iff.mpr ⟨hr.configured, h8, rfl, hcap⟩)
  have hregs := (leads_write (n := 0x08) (by omega) outBits s).append (leads_write (n := 0x09) (by omega) 0 _)
  refine ⟨_, hregs.append (leads_issue hexec),
    ⟨⟨hr.unfaulted, hr.configured, hr.blockWords⟩, ⟨rfl, rfl, rfl⟩, rfl, rfl⟩, rfl, rfl, ?_, rfl, rfl⟩
  change (Vector.replicate 16 (0 : Word)).toList.take (blockWords s) = _
  rw [Vector.toList_replicate, List.take_replicate, Nat.min_eq_left (legalCount_le hr.legalCount)]

/-- An optional pass over the input x is R117's step (R104). -/
theorem cvWords_optPass {s : State} (h : LegalCount (blockWords s)) {x : List Byte} (hx : x.length < 2 ^ 64)
    (hilen : s.ilen = BitVec.ofNat 64 x.length) (hblock : inBlock s x.length = blockOf (blockWords s) x)
    (tag : BitVec 6) :
    cvWords (optPass tag s) = hashOptional (blockWords s) (roundCount s) tag (some x) (cvWords s) := by
  have hn : s.ilen.toNat = x.length := by rw [hilen, BitVec.toNat_ofNat, Nat.mod_eq_of_lt hx]
  rw [optPass_eq_pass, hn, hblock, hilen]
  exact cvWords_pass h _ _ _ _ _ (length_blockOf _ _)

/-- An input of at most a block, in BLK and ILEN (R57, R132). -/
theorem input_fits {s t : State} {outBits : Word} (h : Hashing s outBits t) {x : List Byte}
    (hx : x.length ≤ blockBytes s) : x.length ≤ 128 ∧ (withInput x t).ilen.toNat ≤ blockBytes (withInput x t) := by
  have hle := Nat.le_trans hx (blockBytes_le h.legalCount)
  refine ⟨hle, ?_⟩
  rw [toNat_withInput_ilen (by omega), (h.withInput x).blockBytes_eq]
  exact hx

/-- The key, if there is one (R58, R106). -/
theorem leads_key {s t : State} {outBits : Word} (h : Started s outBits t) {x : Option (List Byte)} {l : List HostMove}
    (hl : optionalScript (blockBytes s) .hkey x = some l) :
    ∃ u, Leads l t u ∧ (u.phase = .new ∨ u.phase = .keyed) ∧
      Absorbing s outBits (hashConfig (blockWords s) (roundCount s) outBits
        (hashOptional (blockWords s) (roundCount s) 0 x (List.replicate (blockWords s) 0))) 0 u := by
  obtain ⟨hh, hphase, hdone, hcv, hbpos, hfirst⟩ := h
  have hnw := hh.legalCount
  have hr := hh.runnable
  rw [← hh.blockWords_eq] at hcv hnw ⊢
  rw [← hh.roundCount_eq]
  cases x with
  | none =>
    cases hl
    refine ⟨t, Leads.nil t, .inl hphase, hh, ?_, hbpos, hfirst⟩
    rw [configuredChain_due hdone, hcv, hh.latched]
    rfl
  | some x =>
    obtain ⟨hx, hfits⟩ := input_fits hh (hoptScript_eq_some.mp hl).1
    have hexec : exec .hkey (withInput x t) = .next (hkeyEffect (withInput x t)) :=
      exec_runs (by decide) hr.unfaulted (hkey_runs_iff.mpr ⟨hr.configured, hphase, hfits⟩)
    have hpass : cvWords (hkeyEffect (withInput x t)) = _ :=
      cvWords_optPass (s := withInput x t) hnw (by omega) rfl (inBlock_withInput hx t) tagKey
    refine ⟨_, leads_hopt hl hexec, .inr rfl,
      (hh.withInput x).of_onlyHashFields (hkeyEffect_onlyHashFields _), ?_, hbpos, hfirst⟩
    rw [configuredChain_due (t := hkeyEffect (withInput x t)) hdone, hpass, ← hh.latched, ← hcv]
    rfl

/-! ## The other optional inputs -/

/-- The optional pass with tag `tag` is legal (R100). -/
def TakesInput (tag : BitVec 6) (t : State) : Prop :=
  t.phase = .new ∨ t.phase = .keyed ∨ (t.phase = .pre ∧ t.lasttype < tag)

theorem TakesInput.mono {tag tag' : BitVec 6} (h : tag ≤ tag') {t : State} : TakesInput tag t → TakesInput tag' t :=
  Or.imp_right (Or.imp_right (And.imp_right fun hlt => Nat.lt_of_lt_of_le hlt h))

theorem TakesInput.takesMessage {tag : BitVec 6} {t : State} : TakesInput tag t → TakesMessage t :=
  Or.imp_right (Or.imp_right fun h => .inl h.1)

/-- An optional input after the key, if it is present (R58, R107 to R110). -/
theorem leads_optional {c : OptionalCommand} {tag tag' : BitVec 6}
    (hc : ∀ u, exec (optionalInstr c) u = optionalCommand tag u) (htag : tag < tag') {s t : State} {outBits : Word}
    {g : List Word} (h : Absorbing s outBits g 0 t) (hp : TakesInput tag t) {x : Option (List Byte)} {l : List HostMove}
    (hl : optionalScript (blockBytes s) c x = some l) :
    ∃ u, Leads l t u ∧ TakesInput tag' u ∧
      Absorbing s outBits (hashOptional (blockWords s) (roundCount s) tag x g) 0 u := by
  cases x with
  | none =>
    cases hl
    exact ⟨t, Leads.nil t, hp.mono (BitVec.le_of_lt htag), h⟩
  | some x =>
    obtain ⟨hh, rfl, hbpos, hfirst⟩ := h
    obtain ⟨hx, hfits⟩ := input_fits hh (hoptScript_eq_some.mp hl).1
    have hr := hh.runnable
    have hexec : exec (optionalInstr c) (withInput x t) = .next (optionalEffect tag (withInput x t)) :=
      (hc _).trans (command_runs hr.unfaulted (optional_runs_iff.mpr ⟨hr.configured, hp, hfits⟩))
    have hh' := (hh.withInput x).of_onlyHashFields (ensureConfig_onlyHashFields _)
    have hblock : inBlock (ensureConfig (withInput x t)) x.length =
        blockOf (blockWords (ensureConfig (withInput x t))) x := by
      rw [inBlock_ensureConfig, ensureConfig_blockWords]
      exact inBlock_withInput hx t
    have hpass : cvWords (optionalEffect tag (withInput x t)) = _ :=
      cvWords_optPass hh'.runnable.legalCount (by omega) (ensureConfig_ilen _) hblock tag
    refine ⟨_, leads_hopt hl hexec, .inr (.inr ⟨rfl, htag⟩),
      (hh.withInput x).of_onlyHashFields (optionalEffect_onlyHashFields _ _), ?_,
      (ensureConfig_bpos _).trans hbpos, (ensureConfig_firstpend _).trans hfirst⟩
    rw [configuredChain_done (t := optionalEffect tag (withInput x t)) (ensureConfig_cfgdone _), hpass,
      cvWords_ensureConfig (s := withInput x t) hr.legalCount, hh'.blockWords_eq, hh'.roundCount_eq]
    rfl

/-! ## How a message is cut into blocks -/

/-- Every block but the last is full, with bytes of the message after it (R56). -/
theorem lt_of_lt_messageBlockCount {nw len j : Nat} (hnw : 0 < nw) (h : j + 1 < messageBlockCount nw len) :
    (j + 1) * (8 * nw) < len := by
  have hj : j + 2 ≤ (len + 8 * nw - 1) / (8 * nw) := by
    have h' : j + 1 < max 1 ((len + 8 * nw - 1) / (8 * nw)) := h
    omega
  have := (Nat.le_div_iff_mul_le (by omega)).mp hj
  rw [Nat.add_mul] at this ⊢
  omega

/-- The blocks cover the message (R56). -/
theorem le_messageBlockCount_mul {nw : Nat} (hnw : 0 < nw) (len : Nat) : len ≤ messageBlockCount nw len * (8 * nw) := by
  have hlt : len + 8 * nw - 1 < 8 * nw * ((len + 8 * nw - 1) / (8 * nw) + 1) := Nat.lt_mul_div_succ _ (by omega)
  have hle : (len + 8 * nw - 1) / (8 * nw) ≤ messageBlockCount nw len := Nat.le_max_right _ _
  have := Nat.mul_le_mul_right (8 * nw) hle
  rw [Nat.mul_succ, Nat.mul_comm (8 * nw)] at hlt
  omega

/-- A last block that is not the only one is not empty (R56). -/
theorem eq_zero_or_lt_of_last {nw len j : Nat} (hnw : 0 < nw) (h : j < messageBlockCount nw len) :
    j = 0 ∨ j * (8 * nw) < len := by
  cases j with
  | zero => exact .inl rfl
  | succ j => exact .inr (lt_of_lt_messageBlockCount hnw h)

/-! ## The message -/

theorem messageBlock_cfgdone (final bitpad : Bool) (n : Nat) (m : List Word) (after : Phase) (s : State) :
    (messageBlock final bitpad n m after s).cfgdone = true := ensureConfig_cfgdone s

/-- A message block of `k` bytes is R117's step, at the position after it, the first block being the one at position 0
(R111, R112). -/
theorem messageBlock_absorbs {s t : State} {outBits : Word} {g : List Word} {n : Nat} (h : Absorbing s outBits g n t)
    (final bitpad : Bool) (k : Nat) {m : List Word} (hm : m.length = blockWords s) (after : Phase) :
    Hashing s outBits (messageBlock final bitpad k m after t) ∧
    (messageBlock final bitpad k m after t).bpos = BitVec.ofNat 64 (n + k) ∧
    cvWords (messageBlock final bitpad k m after t) =
      hashStep (blockWords s) (roundCount s) g final (decide (n = 0)) 48 bitpad (BitVec.ofNat 64 (n + k)) m := by
  obtain ⟨hh, rfl, hbpos, hfirst⟩ := h
  have hpos : (ensureConfig t).bpos + BitVec.ofNat 64 k = BitVec.ofNat 64 (n + k) := by
    rw [ensureConfig_bpos, hbpos, ← BitVec.ofNat_add]
  have hh' := hh.of_onlyHashFields (ensureConfig_onlyHashFields t)
  have hnw := hh.legalCount
  refine ⟨hh.of_onlyHashFields (messageBlock_onlyHashFields _ _ _ _ _ _), hpos, ?_⟩
  rw [messageBlock_eq, hpos, ensureConfig_firstpend, hfirst, ← cvWords_ensureConfig (by rw [hh.blockWords_eq]; exact hnw)]
  rw [← hh'.blockWords_eq] at hnw hm ⊢
  rw [← hh'.roundCount_eq]
  generalize ensureConfig t = u at *
  exact cvWords_pass (s := setBpos (BitVec.ofNat 64 (n + k)) u) hnw _ _ _ _ _ hm

section
variable {s t : State} {outBits : Word} {g : List Word} {n : Nat} (h : Absorbing s outBits g n t) (hp : TakesMessage t)
  {x : List Byte}
include h hp

/-- A full block before the last (R56, R111). -/
theorem leads_hmblk (hlen : n + blockBytes s < 2 ^ 64) :
    ∃ u, Leads (writeBlk x ++ [issue .hmblk]) t u ∧ TakesMessage u ∧
      Absorbing s outBits (hashStep (blockWords s) (roundCount s) g false (decide (n = 0)) 48 false
        (BitVec.ofNat 64 (n + blockBytes s)) (blockOf (blockWords s) x)) (n + blockBytes s) u := by
  have hn : (withBlock x t).bpos.toNat = n := h.toNat_bpos (by omega)
  obtain ⟨hh, hchain, hbpos, hfirst⟩ := h
  have hr := hh.runnable
  have hblk : blkWords (withBlock x t) = blockOf (blockWords s) x :=
    (blkWords_withBlock x hr.legalCount).trans (by rw [hh.blockWords_eq])
  have hfits : (withBlock x t).bpos.toNat + blockBytes (withBlock x t) ≤ 2 ^ 64 - 1 := by
    rw [hn, (hh.withBlock x).blockBytes_eq]
    omega
  have hexec : exec .hmblk (withBlock x t) = .next (hmblkEffect (withBlock x t)) :=
    exec_runs (by decide) hr.unfaulted (hmblk_runs_iff.mpr ⟨hr.configured, hp, hfits⟩)
  obtain ⟨hh', hbpos', hchain'⟩ := messageBlock_absorbs ⟨hh.withBlock x, hchain, hbpos, hfirst⟩ false false (blockBytes s)
    (length_blockOf _ x) .msg
  rw [hmblkEffect, hblk, (hh.withBlock x).blockBytes_eq] at hexec
  have hpos : n + blockBytes s ≠ 0 := by
    have := legalCount_pos hh.legalCount
    rw [blockBytes_eq]
    omega
  exact ⟨_, (leads_writeBlk x t).append (leads_issue hexec), .inr (.inr (.inr rfl)), hh',
    (configuredChain_done (messageBlock_cfgdone _ _ _ _ _ _)).trans hchain', hbpos', (decide_eq_false hpos).symm⟩

/-- The last block (R56, R112). -/
theorem leads_hmfin {b : Bool} (hlen : n + x.length < 2 ^ 64) (hx : x.length ≤ blockBytes s)
    (hempty : x = [] → n = 0 ∧ b = false) :
    ∃ u, Leads (writeBlk x ++ [.write 0x0A (BitVec.ofNat 64 x.length), issue (.hmfin b)]) t u ∧ u.phase = .msgdone ∧
      Hashing s outBits u ∧
      cvWords u = hashStep (blockWords s) (roundCount s) g true (decide (n = 0)) 48 b (BitVec.ofNat 64 (n + x.length))
          (blockOf (blockWords s) x) := by
  have hn : (withInput x t).bpos.toNat = n := h.toNat_bpos (by omega)
  obtain ⟨hh, hchain, hbpos, hfirst⟩ := h
  have hr := hh.runnable
  obtain ⟨hx128, hfits⟩ := input_fits hh hx
  have hilen : (withInput x t).ilen.toNat = x.length := toNat_withInput_ilen (by omega) t
  have hblock : inBlock (withInput x t) x.length = blockOf (blockWords s) x :=
    (inBlock_withInput hx128 t).trans (by rw [hh.blockWords_eq])
  have hnonempty : emptyLastBlock b (withInput x t) = false := by
    change ((withInput x t).ilen == 0 && (!t.firstpend || b)) = false
    by_cases hnil : x = []
    · obtain ⟨hzero, hb⟩ := hempty hnil
      rw [hfirst, hzero, hb, decide_eq_true rfl, Bool.not_true, Bool.or_self, Bool.and_false]
    · have hne : (withInput x t).ilen ≠ 0 := fun h0 =>
        hnil (List.eq_nil_of_length_eq_zero (hilen ▸ congrArg BitVec.toNat h0))
      rw [beq_false_of_ne hne, Bool.false_and]
  have hposition : (withInput x t).bpos.toNat + (withInput x t).ilen.toNat ≤ 2 ^ 64 - 1 := by
    rw [hn, hilen]
    omega
  have hexec : exec (.hmfin b) (withInput x t) = .next (hmfinEffect b (withInput x t)) :=
    exec_runs (by simp) hr.unfaulted (hmfin_runs_iff.mpr ⟨hr.configured, hp, hfits, hnonempty, hposition⟩)
  obtain ⟨hh', -, hchain'⟩ := messageBlock_absorbs ⟨hh.withInput x, hchain, hbpos, hfirst⟩ true b x.length
    (length_blockOf _ x) .msgdone
  rw [hmfinEffect, hilen, hblock] at hexec
  refine ⟨_, ?_, rfl, hh', hchain'⟩
  have := (leads_writeInput x t).append (leads_issue hexec)
  rwa [List.append_assoc] at this

end

end Sys2Proof.Machine
end

section
/-! PROOF. The script of HASH from its message on, and the whole of it (O50). -/

namespace Sys2Proof.Machine

/-! ## The steps of R117 for a message block -/

/-- A block before the last one: neither final nor bit-padded, and full (R117). -/
theorem hashMessageStep_full (nw nr : Nat) {n j : Nat} {m : List Byte} (b : Bool) (hj : j + 1 < n)
    (hm : (j + 1) * (8 * nw) ≤ m.length) (g : List Word) :
    hashMessageStep nw nr n m b j g = hashStep nw nr g false (decide (j = 0)) 48 false
      (BitVec.ofNat 64 ((j + 1) * (8 * nw))) (blockOf nw ((m.drop (j * (8 * nw))).take (8 * nw))) := by
  rw [hashMessageStep, decide_eq_false (Nat.ne_of_lt hj), Bool.and_false, Nat.min_eq_left hm]

/-- The last block: the rest of the message (R117). -/
theorem hashMessageStep_last (nw nr : Nat) {n j : Nat} {m : List Byte} (b : Bool) (hj : j + 1 = n)
    (hm : m.length ≤ (j + 1) * (8 * nw)) (g : List Word) :
    hashMessageStep nw nr n m b j g = hashStep nw nr g true (decide (j = 0)) 48 b (BitVec.ofNat 64 m.length)
      (blockOf nw (m.drop (j * (8 * nw)))) := by
  have hrest : (m.drop (j * (8 * nw))).length ≤ 8 * nw := by
    rw [Nat.add_mul] at hm
    rw [List.length_drop]
    omega
  rw [hashMessageStep, decide_eq_true hj, Bool.and_true, Nat.min_eq_right hm, List.take_of_length_le hrest]

/-- The first block is the one at position 0. -/
theorem decide_mul_eq_zero {j k : Nat} (hk : 0 < k) : decide (j * k = 0) = decide (j = 0) :=
  decide_eq_decide.mpr (by rw [Nat.mul_eq_zero]; omega)

/-- The chaining value after the first `j` blocks of the message, on the engine as `s` configures it (R117). -/
def messageChain (s : State) (m : List Byte) (b : Bool) (g : List Word) (j : Nat) : List Word :=
  hashMessage (blockWords s) (roundCount s) (messageBlockCount (blockWords s) m.length) m b j g

/-- The message from block `j` on (R56, R117). -/
theorem leads_message {s : State} {outBits : Word} {m : List Byte} {b : Bool} (hm : m.length < 2 ^ 64)
    (hb : b = true → m ≠ []) (g : List Word) : ∀ (more j : Nat) {t : State},
    j + 1 + more = messageBlockCount (blockWords s) m.length → TakesMessage t →
    Absorbing s outBits (messageChain s m b g j) (j * blockBytes s) t →
    ∃ u, Leads (messageScript (blockBytes s) b more (m.drop (j * blockBytes s))) t u ∧ u.phase = .msgdone ∧
      Hashing s outBits u ∧ cvWords u = messageChain s m b g (messageBlockCount (blockWords s) m.length)
  | 0, j, t, hn, hp, h => by
    have hnw := legalCount_pos h.hashing.legalCount
    have hcover : m.length ≤ (j + 1) * blockBytes s := hn.symm ▸ le_messageBlockCount_mul hnw m.length
    have hlast : j = 0 ∨ j * blockBytes s < m.length := eq_zero_or_lt_of_last hnw (by omega)
    have hstart : j * blockBytes s ≤ m.length := by
      rcases hlast with rfl | hlt
      · omega
      · exact Nat.le_of_lt hlt
    have hlen : (m.drop (j * blockBytes s)).length = m.length - j * blockBytes s := List.length_drop
    have hempty : m.drop (j * blockBytes s) = [] → j * blockBytes s = 0 ∧ b = false := by
      intro hnil
      have hall : m.length ≤ j * blockBytes s := List.drop_eq_nil_iff.mp hnil
      obtain rfl : j = 0 := hlast.resolve_right (Nat.not_lt.mpr hall)
      refine ⟨Nat.zero_mul _, Bool.eq_false_iff.mpr fun h => hb h (List.eq_nil_of_length_eq_zero ?_)⟩
      omega
    obtain ⟨u, hu, hphase, hh, hcv⟩ := leads_hmfin h hp (by omega) (by rw [Nat.add_mul] at hcover; omega) hempty
    refine ⟨u, hu, hphase, hh, hcv.trans ?_⟩
    rw [hlen, Nat.add_sub_cancel' hstart, decide_mul_eq_zero (by rw [blockBytes_eq]; omega), ← hn]
    exact (hashMessageStep_last _ _ b hn hcover _).symm
  | more + 1, j, t, hn, hp, h => by
    have hnw := legalCount_pos h.hashing.legalCount
    have hfull : (j + 1) * blockBytes s ≤ m.length := Nat.le_of_lt (lt_of_lt_messageBlockCount hnw (by omega))
    rw [Nat.add_mul, Nat.one_mul] at hfull
    obtain ⟨u, hu, hp', h'⟩ := leads_hmblk h hp (x := (m.drop (j * blockBytes s)).take (blockBytes s)) (by omega)
    rw [decide_mul_eq_zero (by rw [blockBytes_eq]; omega), ← Nat.succ_mul] at h'
    have hstep := hashMessageStep_full (blockWords s) (roundCount s) b (n := messageBlockCount (blockWords s) m.length)
      (j := j) (by omega) (by rw [← blockBytes_eq, Nat.succ_mul]; exact hfull)
    rw [← blockBytes_eq] at hstep
    rw [← hstep] at h'
    obtain ⟨v, hv, hdone⟩ := leads_message hm hb g more (j + 1) (by omega) hp' h'
    refine ⟨v, ?_, hdone⟩
    rw [messageScript, List.drop_drop, ← Nat.succ_mul]
    exact hu.append hv

/-! ## The digest -/

/-- The stored bytes read back (R42, R43). -/
theorem memReadBytes_stored (d : List Byte) : memReadBytes (memWriteBytes [] 0 d) 0 d.length = d := by
  refine List.ext_getElem (by simp [memReadBytes]) fun j _ hj => ?_
  simp [memReadBytes, memRead_stored, List.getElem?_eq_getElem hj]

/-- The words of OBUF that hold a stored byte string are those of its padded block (R32, R41, R44). -/
theorem readReg_obw_stored {s : State} {d : List Byte} (h : s.obuf = memWriteBytes [] 0 d) {n j : Nat} (hj : j < n) :
    readReg (.obw j) s = (blockOf n d).getD j 0 := by
  refine eq_of_wordByte_eq fun k hk => ?_
  rw [readReg, h, wordByte_le64 _ hk, getD_memReadBytes _ _ hk, memRead_stored, wordByte_getD_blockOf _ hj hk]

/-- The digest of the chaining value `g`: the bytes of the output blocks, cut to the output length (R113, R114, R117). -/
def digestOf (s : State) (outBits : Word) (g : List Word) : List Byte :=
  (hashOutput (blockWords s) (roundCount s) (ceilDiv outBits.toNat (64 * blockWords s))
    (ceilDiv outBits.toNat (64 * blockWords s)) g).2.take (outBits.toNat / 8)

theorem length_digestOf {s : State} (h : LegalCount (blockWords s)) {outBits : Word} (h8 : outBits.toNat % 8 = 0)
    {g : List Word} (hg : g.length = blockWords s) : (digestOf s outBits g).length = outBits.toNat / 8 := by
  rw [digestOf, List.length_take, length_hashOutput_bytes h _ _ hg]
  exact Nat.min_eq_left (le_outputBlockCount (legalCount_pos h) h8)

/-- HOUT delivers the digest (R113, R114). -/
theorem leads_hout {s t : State} {outBits : Word} (h : Hashing s outBits t) (hp : t.phase = .msgdone) :
    ∃ u, Leads [issue .hout] t u ∧ u.fault = false ∧ u.phase = .done ∧ u.reads = s.reads ∧
      u.obuf = memWriteBytes [] 0 (digestOf s outBits (cvWords t)) ∧
      u.olen = BitVec.ofNat 64 (digestOf s outBits (cvWords t)).length := by
  have hnw := h.legalCount
  rw [digestOf, ← h.blockWords_eq, ← h.roundCount_eq]
  rw [← h.blockWords_eq] at hnw
  obtain ⟨hr, -, rfl, hreads⟩ := h
  have hexec : exec .hout t = .next (houtEffect t) :=
    exec_runs (by decide) hr.unfaulted (hout_runs_iff.mpr ⟨hr.configured, hp⟩)
  rw [← (outputBlocks_eq hnw _ _).1]
  exact ⟨_, leads_issue hexec, (houtEffect_keeps t State.fault fun _ _ => rfl).trans hr.unfaulted, rfl,
    (houtEffect_keeps t State.reads fun _ _ => rfl).trans hreads, rfl, rfl⟩

/-- HASH's reads return OLEN and the words of the digest (R58). -/
theorem leads_digestReads {s : State} {d : List Byte} (h : s.obuf = memWriteBytes [] 0 d) (hcap : d.length ≤ obufMax) :
    Leads (digestReads d.length) s (recordReads (s.olen :: blockOf (ceilDiv d.length 8) d) s) := by
  have hwords : (List.range (ceilDiv d.length 8)).map (fun j => readReg (regOf (0x60 + j)) s) =
      blockOf (ceilDiv d.length 8) d := by
    refine List.ext_getElem (by simp) fun j hj hj' => ?_
    rw [length_blockOf] at hj'
    have hreg : j < obufMax / 8 := by
      have hunits : obufMax = 128 * (Config.obufExtraUnits + 1) := rfl
      have hj8 : j < (d.length + 8 - 1) / 8 := hj'
      omega
    rw [List.getElem_map, List.getElem_range, regOf_obw hreg, readReg_obw_stored h hj', List.getD_eq_getElem]
  have hreads := (leads_read 0x0B s).append (leads_readWords 0x60 _ (ceilDiv d.length 8))
  simp only [readReg_recordReads] at hreads
  rw [hwords, recordReads_recordReads] at hreads
  exact hreads

/-! ## The whole script -/

/-- HASH's optional inputs (R58, R117). -/
theorem leads_optionalInputs {s t : State} {outBits : Word} (h : Started s outBits t) {o : OptionalInputs}
    {l : List HostMove} (hl : optionalScripts (blockBytes s) (optionalList o) = some l) :
    ∃ u, Leads l t u ∧ TakesMessage u ∧
      Absorbing s outBits (hashPrelude (blockWords s) (roundCount s) outBits o) 0 u := by
  obtain ⟨l1, r1, hkey, h1, rfl⟩ := optionalScripts_cons_eq_some.mp hl
  obtain ⟨l2, r2, hprs, h2, rfl⟩ := optionalScripts_cons_eq_some.mp h1
  obtain ⟨l3, r3, hpk, h3, rfl⟩ := optionalScripts_cons_eq_some.mp h2
  obtain ⟨l4, r4, hkdf, h4, rfl⟩ := optionalScripts_cons_eq_some.mp h3
  obtain ⟨l5, r5, hnon, h5, rfl⟩ := optionalScripts_cons_eq_some.mp h4
  cases h5
  obtain ⟨u1, hl1, hp1, ha1⟩ := leads_key h hkey
  have hp1' : TakesInput tagPrs u1 := hp1.imp_right .inl
  obtain ⟨u2, hl2, hp2, ha2⟩ := leads_optional (tag' := tagPk) (fun _ => rfl) (by decide) ha1 hp1' hprs
  obtain ⟨u3, hl3, hp3, ha3⟩ := leads_optional (tag' := tagKdf) (fun _ => rfl) (by decide) ha2 hp2 hpk
  obtain ⟨u4, hl4, hp4, ha4⟩ := leads_optional (tag' := tagNon) (fun _ => rfl) (by decide) ha3 hp3 hkdf
  obtain ⟨u5, hl5, hp5, ha5⟩ := leads_optional (tag' := tagMsg) (fun _ => rfl) (by decide) ha4 hp4 hnon
  rw [List.append_nil]
  exact ⟨u5, hl1.append (hl2.append (hl3.append (hl4.append hl5))), hp5.takesMessage, ha5⟩

/-- Settles O50: the script is HINIT, the optional inputs, the message, HOUT and the reads, and each part leads to the next
step of R117. -/
theorem hashPseudoCommandComputesHash : Obligations.HashPseudoCommandComputesHash := by
  refine ⟨fun nw outBits m o b => ?_, fun s outBits m o b hr h8 hcap hm hb hs => ?_⟩
  · rw [hashScript_eq_none, optionalScripts_eq_none]
    simp only [optionalList, List.exists_mem_cons_iff, List.not_mem_nil, false_and, exists_false]
  · obtain ⟨inputs, hinputs, hscript⟩ := hashScript_eq_some.mp hs
    obtain ⟨t1, hl1, hstart⟩ := leads_hinit hr h8 hcap
    obtain ⟨t2, hl2, hp2, ha2⟩ := leads_optionalInputs hstart hinputs
    have hcount : 1 ≤ messageBlockCount (blockWords s) m.length := Nat.le_max_left _ _
    rw [← Nat.zero_mul (blockBytes s)] at ha2
    obtain ⟨t3, hl3, hp3, hh3, hcv3⟩ := leads_message hm hb _ (messageBlockCount (blockWords s) m.length - 1) 0
      (by omega) hp2 ha2
    obtain ⟨t4, hl4, hfault, hphase, hreads, hobuf, holen⟩ := leads_hout hh3 hp3
    have hlen := length_digestOf hr.legalCount h8 (g := cvWords t3) (by
      rw [← hh3.blockWords_eq]
      exact length_cvWords (by rw [hh3.blockWords_eq]; exact hr.legalCount))
    have hdigest : digestOf s outBits (cvWords t3) = hashFunction (blockWords s) (roundCount s) outBits m o b := by
      rw [hcv3]
      rfl
    rw [hdigest] at hlen hobuf holen
    have hfit : outBits.toNat / 8 ≤ obufMax := Nat.le_trans (le_outputBlockCount (legalCount_pos hr.legalCount) h8) hcap
    have hl5 := leads_digestReads hobuf (hlen ▸ hfit)
    rw [hlen] at holen hl5
    refine ⟨_, ((((hl1.append hl2).append hl3).append hl4).append hl5).run ?_, hfault, hphase, ?_, ?_, ?_⟩
    · rw [Nat.zero_mul, List.drop_zero]
      exact hscript.symm
    · change t4.olen.toNat = _
      rw [holen, BitVec.toNat_ofNat, Nat.mod_eq_of_lt (Nat.lt_of_le_of_lt (Nat.div_le_self _ _) outBits.isLt)]
    · change memReadBytes t4.obuf 0 _ = _
      rw [hobuf, ← hlen, memReadBytes_stored]
    · exact congrArg (· ++ _) hreads

end Sys2Proof.Machine
end

section
/-! PROOF. The cipher's tables, schedules and rounds (O22 to O27): each operation of a round has its inverse, so a
round has, so the cipher has. -/

namespace Sys2Proof.Machine

/-! ## Rotations and mixes -/

/-- ROTL64 is the rotation of a 64-bit word (spec/00_scope.md section 5). -/
theorem rotl_eq_rotateLeft (x : Word) {r : Nat} (h : r < 64) : rotl x r = x.rotateLeft r :=
  (BitVec.rotateLeft_eq_rotateLeftAux_of_lt h).symm

theorem rotr_eq_rotateRight (x : Word) {r : Nat} (h : r < 64) : rotr x r = x.rotateRight r :=
  (BitVec.rotateRight_eq_rotateRightAux_of_lt h).symm

theorem rotr_rotl (x : Word) {r : Nat} (h : r < 64) : rotr (rotl x r) r = x := by
  rw [rotl_eq_rotateLeft x h, rotr_eq_rotateRight _ h]
  refine BitVec.eq_of_getElem_eq fun i hi => ?_
  simp only [BitVec.getElem_rotateRight, BitVec.getElem_rotateLeft, Nat.mod_eq_of_lt h]
  split
  · rw [dif_neg (by omega)]
    exact getElem_congr_idx (by omega)
  · rw [dif_pos (by omega)]
    exact getElem_congr_idx (by omega)

theorem rotl_rotr (x : Word) {r : Nat} (h : r < 64) : rotl (rotr x r) r = x := by
  rw [rotr_eq_rotateRight x h, rotl_eq_rotateLeft _ h]
  refine BitVec.eq_of_getElem_eq fun i hi => ?_
  simp only [BitVec.getElem_rotateLeft, BitVec.getElem_rotateRight, Nat.mod_eq_of_lt h]
  split
  · rw [dif_neg (by omega)]
    exact getElem_congr_idx (by omega)
  · rw [dif_pos (by omega)]
    exact getElem_congr_idx (by omega)

/-- Unmix undoes Mix (R73): the XOR with the sum cancels, then the rotation, then the addition. -/
theorem unmix_mix (x0 x1 : Word) {r : Nat} (h : r < 64) : unmix (mix x0 x1 r).1 (mix x0 x1 r).2 r = (x0, x1) := by
  have hrot : rotr (rotl x1 r ^^^ (x0 + x1) ^^^ (x0 + x1)) r = x1 := by
    rw [BitVec.xor_assoc, BitVec.xor_self, BitVec.xor_zero, rotr_rotl x1 h]
  change (x0 + x1 - rotr (rotl x1 r ^^^ (x0 + x1) ^^^ (x0 + x1)) r, rotr (rotl x1 r ^^^ (x0 + x1) ^^^ (x0 + x1)) r) = _
  rw [hrot, BitVec.add_sub_cancel]

/-- Mix undoes Unmix (R73). -/
theorem mix_unmix (y0 y1 : Word) {r : Nat} (h : r < 64) : mix (unmix y0 y1 r).1 (unmix y0 y1 r).2 r = (y0, y1) := by
  change (y0 - rotr (y1 ^^^ y0) r + rotr (y1 ^^^ y0) r,
    rotl (rotr (y1 ^^^ y0) r) r ^^^ (y0 - rotr (y1 ^^^ y0) r + rotr (y1 ^^^ y0) r)) = _
  rw [BitVec.sub_add_cancel, rotl_rotr _ h, BitVec.xor_assoc, BitVec.xor_self, BitVec.xor_zero]

/-- Settles O22. -/
theorem mixAndUnmixAreInverse : Obligations.MixAndUnmixAreInverse :=
  ⟨fun _ _ _ => ⟨rfl, rfl⟩, fun _ _ _ => ⟨rfl, rfl⟩,
    fun x0 x1 _ _ h => ⟨unmix_mix x0 x1 h, mix_unmix x0 x1 h, rotl_eq_rotateLeft x0 h, rotr_eq_rotateRight x0 h⟩,
    rfl⟩

/-! ## The tables -/

theorem legalCount_of_mem {nw : Nat} (h : nw ∈ [4, 8, 16]) : LegalCount nw := by
  change nw = 4 ∨ nw = 8 ∨ nw = 16
  simpa using h

/-- The rotation amounts repeat every eight rounds (R64). -/
theorem rotRow_mod (nw d : Nat) : rotRow nw (d % 8) = rotRow nw d := by
  change List.getD _ (d % 8 % 8) [] = _
  rw [Nat.mod_mod]
  rfl

theorem rotRow_bounds {nw : Nat} (h : LegalCount nw) (d : Nat) : ∀ r ∈ rotRow nw d, 0 < r ∧ r < 64 := by
  have hrows : ∀ e < 8, ∀ r ∈ rotRow nw e, 0 < r ∧ r < 64 := by rcases h with rfl | rfl | rfl <;> decide
  exact rotRow_mod nw d ▸ hrows (d % 8) (Nat.mod_lt d (by omega))

theorem perm_perm_range {nw : Nat} (h : LegalCount nw) : (perm nw).Perm (List.range nw) := by
  rcases h with rfl | rfl | rfl <;> decide

theorem permInv_perm_range {nw : Nat} (h : LegalCount nw) : (permInv nw).Perm (List.range nw) := by
  rcases h with rfl | rfl | rfl <;> decide

/-- PERM looked up at INV is the identity (R65). -/
theorem map_perm_permInv {nw : Nat} (h : LegalCount nw) :
    (permInv nw).map (fun i => (perm nw).getD i 0) = List.range nw := by
  rcases h with rfl | rfl | rfl <;> rfl

/-- INV looked up at PERM is the identity (R65). -/
theorem map_permInv_perm {nw : Nat} (h : LegalCount nw) :
    (perm nw).map (fun i => (permInv nw).getD i 0) = List.range nw := by
  rcases h with rfl | rfl | rfl <;> rfl

/-- Where a table looked up at another gives the identity, it does so at each index. -/
theorem getD_getD_of_map_eq_range {p q : List Nat} {n i : Nat} (h : q.map (fun i => p.getD i 0) = List.range n)
    (hi : i < n) : p.getD (q.getD i 0) 0 = i := by
  have hq : i < q.length := by rwa [← List.length_map, h, List.length_range]
  calc p.getD (q.getD i 0) 0 = (q.map fun i => p.getD i 0)[i]'(by rwa [List.length_map]) := by
        rw [List.getElem_map, ← List.getD_eq_getElem q 0 hq]
    _ = i := by simp only [h, List.getElem_range]

/-- Settles O23. -/
theorem cipherTablesAreSound : Obligations.CipherTablesAreSound := by
  intro nw hnw
  have h := legalCount_of_mem hnw
  refine ⟨perm_perm_range h, fun i hi => ⟨getD_getD_of_map_eq_range (map_permInv_perm h) hi,
    getD_getD_of_map_eq_range (map_perm_permInv h) hi⟩, fun d => ⟨?_, rotRow_bounds h d⟩⟩
  have := length_rotRow h d
  omega

/-! ## The schedules and the subkeys -/

/-- Settles O24. -/
theorem schedulesAreDerived : Obligations.SchedulesAreDerived := by
  refine ⟨fun k => ⟨length_keySchedule k, fun i hi => List.getElem?_append_left hi, ?_⟩, fun _ _ => rfl⟩
  have hparity : k.foldl (· ^^^ ·) parityConstant = parityConstant ^^^ k.foldr (· ^^^ ·) 0 :=
    BitVec.xor_zero.symm.trans List.foldl1_eq_foldr1
  exact List.getElem?_concat_length.trans (congrArg some hparity)

theorem getElem?_subkey {nw i : Nat} (hi : i < nw) (ks : List Word) (ts : Vector Word 3) (n : Nat) :
    (subkey nw ks ts n)[i]? = some (subkeyWord nw ks ts n i) := by
  change ((List.range nw).map (subkeyWord nw ks ts n))[i]? = _
  rw [List.getElem?_map, List.getElem?_range hi, Option.map_some]

theorem subkeyWord_eq (nw : Nat) (ks : List Word) (ts : Vector Word 3) (n i : Nat) : subkeyWord nw ks ts n i =
    if i + 3 = nw then ks.getD ((n + i) % (nw + 1)) 0 + ts.toList.getD (n % 3) 0
    else if i + 2 = nw then ks.getD ((n + i) % (nw + 1)) 0 + ts.toList.getD ((n + 1) % 3) 0
    else if i + 1 = nw then ks.getD ((n + i) % (nw + 1)) 0 + BitVec.ofNat 64 n
    else ks.getD ((n + i) % (nw + 1)) 0 := rfl

/-- Settles O25. -/
theorem subkeyWordsFollowTheSchedules : Obligations.SubkeyWordsFollowTheSchedules := by
  intro nw ks ts n i hnw hks hi
  have h4 : 4 ≤ nw := by
    rcases legalCount_of_mem hnw with rfl | rfl | rfl <;> omega
  have hbase : (n + i) % (nw + 1) < ks.length := by
    rw [hks]
    exact Nat.mod_lt _ (Nat.succ_pos nw)
  refine ⟨ks.getD ((n + i) % (nw + 1)) 0, ?_, fun h => ?_, fun h => ?_, fun h => ?_, fun h => ?_⟩
  · rw [List.getD_eq_getElem _ _ hbase, List.getElem?_eq_getElem hbase]
  · rw [getElem?_subkey hi, subkeyWord_eq, if_neg (by omega), if_neg (by omega), if_neg (by omega)]
  · rw [getElem?_subkey hi, subkeyWord_eq, if_pos (by omega)]
  · rw [getElem?_subkey hi, subkeyWord_eq, if_neg (by omega), if_pos (by omega)]
  · rw [getElem?_subkey hi, subkeyWord_eq, if_neg (by omega), if_neg (by omega), if_pos (by omega)]

/-! ## The operations of a round and their inverses -/

theorem subSubkey_addSubkey {v k : List Word} (h : v.length = k.length) : subSubkey (addSubkey v k) k = v := by
  refine List.ext_getElem (by simp [h]) fun i hi hv => ?_
  calc (subSubkey (addSubkey v k) k)[i] = v[i] + k[i] - k[i] :=
        List.getElem_zipWith.trans (congrArg (· - k[i]) List.getElem_zipWith)
    _ = v[i] := BitVec.add_sub_cancel _ _

theorem addSubkey_subSubkey {v k : List Word} (h : v.length = k.length) : addSubkey (subSubkey v k) k = v := by
  refine List.ext_getElem (by simp [h]) fun i hi hv => ?_
  calc (addSubkey (subSubkey v k) k)[i] = v[i] - k[i] + k[i] :=
        List.getElem_zipWith.trans (congrArg (· + k[i]) List.getElem_zipWith)
    _ = v[i] := BitVec.sub_add_cancel _ _

theorem mixPairs_cons (r : Nat) (rs : List Nat) (x0 x1 : Word) (xs : List Word) :
    mixPairs (r :: rs) (x0 :: x1 :: xs) = (mix x0 x1 r).1 :: (mix x0 x1 r).2 :: mixPairs rs xs := rfl

theorem unmixPairs_cons (r : Nat) (rs : List Nat) (y0 y1 : Word) (ys : List Word) :
    unmixPairs (r :: rs) (y0 :: y1 :: ys) = (unmix y0 y1 r).1 :: (unmix y0 y1 r).2 :: unmixPairs rs ys := rfl

theorem unmixPairs_mixPairs : ∀ {rs : List Nat} {ws : List Word}, (∀ r ∈ rs, 0 < r ∧ r < 64) →
    ws.length = 2 * rs.length → unmixPairs rs (mixPairs rs ws) = ws
  | [], _, _, h => (List.eq_nil_of_length_eq_zero h).symm
  | _ :: _, [], _, h => by simp at h
  | _ :: rs, [_], _, h => by
    simp only [List.length_cons, List.length_nil] at h
    omega
  | r :: rs, x0 :: x1 :: xs, hr, h => by
    obtain ⟨⟨-, hr⟩, hrs⟩ := List.forall_mem_cons.mp hr
    have ih : unmixPairs rs (mixPairs rs xs) = xs :=
      unmixPairs_mixPairs hrs (by simp only [List.length_cons] at h; omega)
    rw [mixPairs_cons, unmixPairs_cons, unmix_mix x0 x1 hr, ih]

theorem mixPairs_unmixPairs : ∀ {rs : List Nat} {ws : List Word}, (∀ r ∈ rs, 0 < r ∧ r < 64) →
    ws.length = 2 * rs.length → mixPairs rs (unmixPairs rs ws) = ws
  | [], _, _, h => (List.eq_nil_of_length_eq_zero h).symm
  | _ :: _, [], _, h => by simp at h
  | _ :: rs, [_], _, h => by
    simp only [List.length_cons, List.length_nil] at h
    omega
  | r :: rs, y0 :: y1 :: ys, hr, h => by
    obtain ⟨⟨-, hr⟩, hrs⟩ := List.forall_mem_cons.mp hr
    have ih : mixPairs rs (unmixPairs rs ys) = ys :=
      mixPairs_unmixPairs hrs (by simp only [List.length_cons] at h; omega)
    rw [unmixPairs_cons, mixPairs_cons, mix_unmix y0 y1 hr, ih]

/-- Permuting by two tables, of which the first looked up at the second gives the identity, leaves a block. -/
theorem permute_permute {p q : List Nat} {n : Nat} (h : q.map (fun i => p.getD i 0) = List.range n)
    (hq : ∀ i ∈ q, i < p.length) {ws : List Word} (hw : ws.length = n) : permute q (permute p ws) = ws := by
  have hlookup : ∀ i ∈ q, (permute p ws).getD i 0 = ws.getD (p.getD i 0) 0 := fun i hi => by
    rw [List.getD_eq_getElem _ _ (by rw [length_permute]; exact hq i hi), List.getD_eq_getElem _ _ (hq i hi)]
    exact List.getElem_map _
  have hrange : (List.range n).map (fun i => ws.getD i 0) = ws :=
    List.ext_getElem (by simp [hw]) fun i _ hi => by
      rw [List.getElem_map, List.getElem_range, List.getD_eq_getElem ws 0 hi]
  calc permute q (permute p ws) = q.map (fun i => ws.getD (p.getD i 0) 0) := List.map_congr_left hlookup
    _ = (q.map fun i => p.getD i 0).map fun i => ws.getD i 0 := by
        rw [List.map_map]
        rfl
    _ = ws := by rw [h, hrange]

section
variable {nw : Nat} (h : LegalCount nw)
include h

theorem permute_permInv_perm {ws : List Word} (hw : ws.length = nw) :
    permute (permInv nw) (permute (perm nw) ws) = ws :=
  permute_permute (map_perm_permInv h)
    (fun i hi => by rw [length_perm h]; exact List.mem_range.mp ((permInv_perm_range h).subset hi)) hw

theorem permute_perm_permInv {ws : List Word} (hw : ws.length = nw) :
    permute (perm nw) (permute (permInv nw) ws) = ws :=
  permute_permute (map_permInv_perm h)
    (fun i hi => by rw [length_permInv h]; exact List.mem_range.mp ((perm_perm_range h).subset hi)) hw

end

/-! ## Rounds and the cipher -/

section
variable (nw : Nat) (ks : List Word) (ts : Vector Word 3) (d : Nat) (v : List Word)

/-- What round d adds before its mixes: on every fourth round a subkey (R67). -/
def addRoundKey : List Word := if d % 4 = 0 then addSubkey v (subkey nw ks ts (d / 4)) else v

/-- What round d, undone, subtracts after its mixes (R68). -/
def subRoundKey : List Word := if d % 4 = 0 then subSubkey v (subkey nw ks ts (d / 4)) else v

theorem encRound_eq : encRound nw ks ts d v =
    permute (perm nw) (mixPairs (rotRow nw d) (addRoundKey nw ks ts d v)) := rfl

theorem decRound_eq : decRound nw ks ts d v =
    subRoundKey nw ks ts d (unmixPairs (rotRow nw d) (permute (permInv nw) v)) := rfl

theorem encRounds_succ (n : Nat) : encRounds nw ks ts v (n + 1) = encRound nw ks ts n (encRounds nw ks ts v n) := rfl

theorem decRounds_succ (n : Nat) : decRounds nw ks ts (n + 1) v = decRounds nw ks ts n (decRound nw ks ts n v) := rfl

theorem encrypt_eq (nr : Nat) : encrypt nw nr ks ts v =
    addSubkey (encRounds nw ks ts v nr) (subkey nw ks ts (nr / 4)) := rfl

theorem decrypt_eq (nr : Nat) : decrypt nw nr ks ts v =
    decRounds nw ks ts nr (subSubkey v (subkey nw ks ts (nr / 4))) := rfl

end

section
variable {nw : Nat} (ks : List Word) (ts : Vector Word 3) (d : Nat) {v : List Word} (hv : v.length = nw)
include hv

theorem length_addRoundKey : (addRoundKey nw ks ts d v).length = nw := by
  change (if _ then _ else _ : List Word).length = nw
  split
  · simp [hv]
  · exact hv

theorem subRoundKey_addRoundKey : subRoundKey nw ks ts d (addRoundKey nw ks ts d v) = v := by
  by_cases hd : d % 4 = 0
  · exact (if_pos hd).trans ((congrArg (subSubkey · _) (if_pos hd)).trans (subSubkey_addSubkey (by simp [hv])))
  · exact (if_neg hd).trans (if_neg hd)

theorem addRoundKey_subRoundKey : addRoundKey nw ks ts d (subRoundKey nw ks ts d v) = v := by
  by_cases hd : d % 4 = 0
  · exact (if_pos hd).trans ((congrArg (addSubkey · _) (if_pos hd)).trans (addSubkey_subSubkey (by simp [hv])))
  · exact (if_neg hd).trans (if_neg hd)

end

section
variable {nw : Nat} (h : LegalCount nw) (ks : List Word) (ts : Vector Word 3)
include h

theorem decRound_encRound (d : Nat) {v : List Word} (hv : v.length = nw) :
    decRound nw ks ts d (encRound nw ks ts d v) = v := by
  have hkeyed : (addRoundKey nw ks ts d v).length = nw := length_addRoundKey ks ts d hv
  have hrows := hkeyed.trans (length_rotRow h d).symm
  rw [decRound_eq, encRound_eq, permute_permInv_perm h ((length_mixPairs _ _ hrows).trans hkeyed),
    unmixPairs_mixPairs (rotRow_bounds h d) hrows, subRoundKey_addRoundKey ks ts d hv]

theorem encRound_decRound (d : Nat) {v : List Word} (hv : v.length = nw) :
    encRound nw ks ts d (decRound nw ks ts d v) = v := by
  have hperm : (permute (permInv nw) v).length = nw := by rw [length_permute, length_permInv h]
  have hrows := hperm.trans (length_rotRow h d).symm
  rw [encRound_eq, decRound_eq, addRoundKey_subRoundKey ks ts d ((length_unmixPairs _ _ hrows).trans hperm),
    mixPairs_unmixPairs (rotRow_bounds h d) hrows, permute_perm_permInv h hv]

theorem decRounds_encRounds {p : List Word} (hp : p.length = nw) :
    ∀ n, decRounds nw ks ts n (encRounds nw ks ts p n) = p
  | 0 => rfl
  | n + 1 => by
    rw [encRounds_succ, decRounds_succ, decRound_encRound h ks ts n (length_encRounds h ks ts hp n),
      decRounds_encRounds hp n]

theorem encRounds_decRounds : ∀ (n : Nat) {c : List Word}, c.length = nw →
    encRounds nw ks ts (decRounds nw ks ts n c) n = c
  | 0, _, _ => rfl
  | n + 1, c, hc => by
    rw [decRounds_succ, encRounds_succ, encRounds_decRounds n (length_decRound h ks ts n c),
      encRound_decRound h ks ts n hc]

/-- Decryption undoes encryption (R69). -/
theorem decrypt_encrypt (nr : Nat) {x : List Word} (hx : x.length = nw) :
    decrypt nw nr ks ts (encrypt nw nr ks ts x) = x := by
  rw [decrypt_eq, encrypt_eq, subSubkey_addSubkey (by simp [length_encRounds h ks ts hx]),
    decRounds_encRounds h ks ts hx]

/-- Encryption undoes decryption (R69). -/
theorem encrypt_decrypt (nr : Nat) {x : List Word} (hx : x.length = nw) :
    encrypt nw nr ks ts (decrypt nw nr ks ts x) = x := by
  rw [encrypt_eq, decrypt_eq, encRounds_decRounds h ks ts nr (by simp [hx]), addSubkey_subSubkey (by simp [hx])]

end

/-- Settles O26. -/
theorem cipherRoundTrip : Obligations.CipherRoundTrip := fun _ nr ks ts _ hnw hx =>
  have h := legalCount_of_mem hnw
  ⟨decrypt_encrypt h ks ts nr hx, encrypt_decrypt h ks ts nr hx⟩

set_option maxRecDepth 1000 in
/-- Settles O27 by running the cipher on the nine inputs (spec/95_test_vectors.md section 3). -/
theorem cipherGivesThePrintedVectors : Obligations.CipherGivesThePrintedVectors := by
  refine ⟨?_, ?_, ?_, ?_, ?_, ?_, ?_, ?_, ?_⟩
  all_goals as_aux_lemma => rfl

end Sys2Proof.Machine
end

section
/-! PROOF. The Cipher unit's commands CINIT, CENC and CDEC (O28 to O30): their faults, and the state they leave. -/

namespace Sys2Proof.Machine

/-! ## The faults of the low-level commands -/

/-- Where all checks of a command have the same fault, one that holds raises it, whichever is the first (R139). -/
theorem firstRaised_map_of_mem (k : FaultKind) : ∀ {bs : List Bool}, true ∈ bs → firstRaised (bs.map (·, k)) = some k
  | true :: _, _ => rfl
  | false :: bs, h => by
    rw [List.map_cons, firstRaised_cons]
    exact firstRaised_map_of_mem k (by simpa using h)

theorem lowLevelPhase_eq_false {s : State} (h : ¬OutsideHash s) : lowLevelPhase s = false :=
  Bool.eq_false_iff.mpr fun hp => h ((lowLevelPhase_iff s).mp hp)

/-- CINIT, as the other low-level commands, is refused not configured or inside a hash (R137). -/
theorem lowLevel_raises {s : State} (h : s.cfgv = false ∨ ¬OutsideHash s) :
    firstRaised [(!s.cfgv, .sequenceError), (!lowLevelPhase s, .sequenceError)] = some .sequenceError := by
  refine firstRaised_map_of_mem .sequenceError (bs := [!s.cfgv, !lowLevelPhase s]) ?_
  rcases h with h | h
  · simp [h]
  · simp [lowLevelPhase_eq_false h]

/-- CENC and CDEC are refused with no keyed cipher too (R71, R72). -/
theorem lowLevel_keyed_raises {s : State} (h : s.cfgv = false ∨ ¬OutsideHash s ∨ s.ckeyed = false) :
    firstRaised [(!s.cfgv, .sequenceError), (!lowLevelPhase s, .sequenceError), (!s.ckeyed, .sequenceError)] =
      some .sequenceError := by
  refine firstRaised_map_of_mem .sequenceError (bs := [!s.cfgv, !lowLevelPhase s, !s.ckeyed]) ?_
  rcases h with h | h | h
  · simp [h]
  · simp [lowLevelPhase_eq_false h]
  · simp [h]

/-! ## The states the commands leave -/

theorem ksWords_setSchedule {s : State} (h : LegalCount (blockWords s)) {k : List Word} (hk : k.length = blockWords s)
    (ts : Vector Word 3) : ksWords (setSchedule (keySchedule k) ts s) = keySchedule k :=
  take_writeLow_of_length s.ks ((length_keySchedule k).trans (congrArg (· + 1) hk)) (Nat.succ_le_succ (legalCount_le h))

theorem take_setResult {s : State} (h : LegalCount (blockWords s)) {ws : List Word} (hw : ws.length = blockWords s) :
    (setResult ws s).res.toList.take (blockWords s) = ws :=
  take_writeLow_of_length s.res hw (legalCount_le h)

/-- Settles O28. -/
theorem cinitDerivesSchedules : Obligations.CinitDerivesSchedules := by
  intro s hf
  refine ⟨fun h => command_raises hf (lowLevel_raises h), fun hr ho => ?_⟩
  have hl := hr.legalCount
  have hk := length_keyWords hl
  exact ⟨cinitEffect s, command_runs hf (lowLevel_runs hr.configured ho), ksWords_setSchedule hl hk _, rfl, rfl,
    highWordsKept_setSchedule hl hk _, rfl⟩

section
variable {s : State} (hr : Runnable s) (ho : OutsideHash s) (hk : s.ckeyed = true)
include hr ho hk

theorem exec_cenc : exec .cenc s = .next (cencEffect s) :=
  command_runs hr.unfaulted (lowLevel_keyed_runs hr.configured ho hk)

theorem exec_cdec : exec .cdec s = .next (cdecEffect s) :=
  command_runs hr.unfaulted (lowLevel_keyed_runs hr.configured ho hk)

end

/-- Settles O29. -/
theorem cencWritesCiphertext : Obligations.CencWritesCiphertext := by
  intro s hf
  refine ⟨fun h => command_raises hf (lowLevel_keyed_raises h), fun hr ho hk => ?_⟩
  have hl := hr.legalCount
  have hc := length_encrypt hl (roundCount s) (ksWords s) s.ts (length_blkWords hl)
  exact ⟨cencEffect s, exec_cenc hr ho hk, take_setResult hl hc, highWordsKept_setResult hl hc, rfl⟩

/-- The plaintext comes back when RES of a CENC is decrypted (R72). -/
theorem cdecEffect_cencEffect {s : State} (h : LegalCount (blockWords s)) :
    (cdecEffect { cencEffect s with blk := (cencEffect s).res }).res.toList.take (blockWords s) = blkWords s := by
  have hx := length_blkWords h
  have hblk : blkWords { cencEffect s with blk := (cencEffect s).res } =
      encrypt (blockWords s) (roundCount s) (ksWords s) s.ts (blkWords s) :=
    take_setResult h (length_encrypt h _ _ _ hx)
  have hplain : decrypt (blockWords s) (roundCount s) (ksWords s) s.ts
      (blkWords { cencEffect s with blk := (cencEffect s).res }) = blkWords s := by
    rw [hblk, decrypt_encrypt h _ _ _ hx]
  exact (take_writeLow_of_length _ (hplain ▸ hx) (legalCount_le h)).trans hplain

/-- Settles O30. -/
theorem cdecWritesPlaintext : Obligations.CdecWritesPlaintext := by
  intro s hf
  refine ⟨fun h => command_raises hf (lowLevel_keyed_raises h), fun hr ho hk => ?_, fun hr ho hk => ?_⟩
  · have hl := hr.legalCount
    have hp := length_decrypt hl (roundCount s) (ksWords s) s.ts (length_blkWords hl)
    exact ⟨cdecEffect s, exec_cdec hr ho hk, take_setResult hl hp, highWordsKept_setResult hl hp, rfl⟩
  · have hloaded : Runnable { cencEffect s with blk := (cencEffect s).res } :=
      ⟨hr.unfaulted, hr.configured, hr.blockWords⟩
    exact ⟨_, _, exec_cenc hr ho hk, exec_cdec hloaded ho hk, cdecEffect_cencEffect hr.legalCount⟩

end Sys2Proof.Machine
end

section
/-! PROOF. The chaining controller's commands UINIT, UINITZ, UUPD and UOUT (O31 to O34): their faults, and the state they
leave. -/

namespace Sys2Proof.Machine

/-! ## What the commands read and leave -/

theorem cvWords_setChaining {s : State} (h : LegalCount (blockWords s)) {g : List Word} (hg : g.length = blockWords s) :
    cvWords (setChaining g s) = g :=
  take_writeLow_of_length s.cv hg (legalCount_le h)

/-- UbiUpdate keys the cipher with the chaining value from before the step (R82). -/
theorem ksWords_ubiUpdate {s : State} (h : LegalCount (blockWords s)) (m : List Word) (t0 t1 : Word) :
    ksWords (ubiUpdate m t0 t1 s) = keySchedule (cvWords s) :=
  ksWords_setSchedule h (length_cvWords h) (tweakSchedule t0 t1)

/-- UbiUpdate chains to the ciphertext XOR the block (R82). -/
theorem cvWords_ubiUpdate {s : State} (h : LegalCount (blockWords s)) {m : List Word} (hm : m.length = blockWords s)
    (t0 t1 : Word) :
    cvWords (ubiUpdate m t0 t1 s) = ubiStep (blockWords s) (roundCount s) (cvWords s) (m, t0, t1) :=
  cvWords_setChaining (s := setSchedule _ _ s) h (length_ubiStep h (roundCount s) (cvWords s) (b := (m, t0, t1)) hm)

/-- UINITZ zeroes every used word of CV (R81). -/
theorem getElem_cv_uinitzEffect {s : State} (h : LegalCount (blockWords s)) (i : Fin 16) (hi : i.val < blockWords s) :
    (uinitzEffect s).cv[i] = 0 := by
  have hlen : (List.replicate (blockWords s) (0 : Word)).length = blockWords s := List.length_replicate
  exact (getElem_writeLow_lt s.cv _ (hlen.trans_le (legalCount_le h)) i.isLt (hi.trans_eq hlen.symm)).trans
    (List.getElem_replicate _)

/-- UOUT is refused only where the engine is not configured (R84). -/
theorem uout_raises {s : State} (h : s.cfgv = false) :
    firstRaised [(!s.cfgv, .sequenceError)] = some .sequenceError :=
  firstRaised_map_of_mem .sequenceError (bs := [!s.cfgv]) (by simp [h])

/-! ## The commands -/

/-- Settles O31. -/
theorem uinitLoadsChainingValue : Obligations.UinitLoadsChainingValue := by
  intro s hf
  refine ⟨fun h => command_raises hf (lowLevel_raises h), fun hr ho => ?_⟩
  have hl := hr.legalCount
  have hblk := length_blkWords hl
  exact ⟨uinitEffect s, command_runs hf (lowLevel_runs hr.configured ho), cvWords_setChaining hl hblk,
    highWordsKept_setChaining hl hblk, rfl⟩

/-- Settles O32. -/
theorem uinitzZeroesChainingValue : Obligations.UinitzZeroesChainingValue := by
  intro s hf
  refine ⟨fun h => command_raises hf (lowLevel_raises h), fun hr ho => ?_⟩
  have hl := hr.legalCount
  exact ⟨uinitzEffect s, command_runs hf (lowLevel_runs hr.configured ho), getElem_cv_uinitzEffect hl,
    highWordsKept_setChaining hl List.length_replicate, rfl⟩

/-- Settles O33: UUPD is UbiUpdate of BLK under TWK as it stands. -/
theorem uupdChainsOneBlock : Obligations.UupdChainsOneBlock := by
  intro s hf
  refine ⟨fun h => command_raises hf (lowLevel_raises h), fun hr ho => ?_⟩
  have hl := hr.legalCount
  exact ⟨uupdEffect s, command_runs hf (lowLevel_runs hr.configured ho), ksWords_ubiUpdate hl _ _ _, rfl, rfl,
    cvWords_ubiUpdate hl (length_blkWords hl) _ _, highWordsKept_uupdEffect hl, rfl⟩

/-- Settles O34: PHASE is not among the checks. -/
theorem uoutCopiesChainingValue : Obligations.UoutCopiesChainingValue := by
  intro s hf
  refine ⟨fun h => command_raises hf (uout_raises h), fun hr => ?_⟩
  have hl := hr.legalCount
  have hcv := length_cvWords hl
  exact ⟨uoutEffect s, exec_uout hr, take_setResult hl hcv, highWordsKept_setResult hl hcv, rfl⟩

end Sys2Proof.Machine
end

section
/-! PROOF. The tweak encoder and the configuration serializer (O35 to O38): the fields of the tweak word and of the
configuration block, and the states that TWENC and CFGSER leave. -/

namespace Sys2Proof.Machine

/-! ## The tweak word -/

section
variable (l f : Bool) (ty : BitVec 6) (p : Bool) (pos : Word)

/-- Every bit of t1 (R90). -/
theorem getLsbD_tweakEncode {i : Nat} (hi : i < 64) : (tweakEncode l f ty p pos).2.getLsbD i =
    (decide (i = 63) && l || decide (i = 62) && f || decide (56 ≤ i) && ty.getLsbD (i - 56) ||
      decide (i = 55) && p) := by
  simp only [tweakEncode, BitVec.getLsbD_or, getLsbD_flagWord_shiftLeft _ _ hi, getLsbD_setWidth_shiftLeft _ _ hi]

theorem tweakEncode_final : (tweakEncode l f ty p pos).2.getLsbD 63 = l := by
  rw [getLsbD_tweakEncode _ _ _ _ _ (by omega)]
  simp

theorem tweakEncode_first : (tweakEncode l f ty p pos).2.getLsbD 62 = f := by
  rw [getLsbD_tweakEncode _ _ _ _ _ (by omega)]
  simp

theorem tweakEncode_type : (tweakEncode l f ty p pos).2.extractLsb' 56 6 = ty := by
  ext i hi
  rw [BitVec.getElem_extractLsb', getLsbD_tweakEncode _ _ _ _ _ (by omega)]
  have hfinal : 56 + i ≠ 63 := by omega
  have hfirst : 56 + i ≠ 62 := by omega
  have hbitpad : 56 + i ≠ 55 := by omega
  simp [hfinal, hfirst, hbitpad, BitVec.getLsbD_eq_getElem hi]

theorem tweakEncode_bitpad : (tweakEncode l f ty p pos).2.getLsbD 55 = p := by
  rw [getLsbD_tweakEncode _ _ _ _ _ (by omega)]
  simp

/-- The bits below BITPAD are 0 (R90). -/
theorem tweakEncode_reserved : (tweakEncode l f ty p pos).2.extractLsb' 0 55 = 0 := by
  ext i hi
  rw [BitVec.getElem_extractLsb', Nat.zero_add, getLsbD_tweakEncode _ _ _ _ _ (by omega)]
  have hne : ∀ k ≥ 55, i ≠ k := fun k hk => by omega
  have htype : ¬56 ≤ i := by omega
  simp [hne, htype]

end

/-- Each argument is read back from its own field of the pair. -/
theorem tweakEncode_inj {l f p l' f' p' : Bool} {ty ty' : BitVec 6} {pos pos' : Word}
    (h : tweakEncode l f ty p pos = tweakEncode l' f' ty' p' pos') :
    l = l' ∧ f = f' ∧ ty = ty' ∧ p = p' ∧ pos = pos' := by
  obtain ⟨h0, h1⟩ := Prod.ext_iff.mp h
  have hfinal := congrArg (·.getLsbD 63) h1
  have hfirst := congrArg (·.getLsbD 62) h1
  have htype := congrArg (·.extractLsb' 56 6) h1
  have hbitpad := congrArg (·.getLsbD 55) h1
  simp only [tweakEncode_final, tweakEncode_first, tweakEncode_type, tweakEncode_bitpad] at hfinal hfirst htype hbitpad
  exact ⟨hfinal, hfirst, htype, hbitpad, h0⟩

/-- Settles O35. -/
theorem tweakWordLayout : Obligations.TweakWordLayout :=
  ⟨fun l f p ty pos => ⟨rfl, tweakEncode_final l f ty p pos, tweakEncode_first l f ty p pos,
    tweakEncode_type l f ty p pos, tweakEncode_bitpad l f ty p pos, tweakEncode_reserved l f ty p pos⟩,
    fun _ _ _ _ _ _ _ _ _ _ => tweakEncode_inj⟩

/-! ## TWENC -/

/-- TWENC's one check is the comparison of TYPE with 63 (R92). -/
theorem firstRaised_twenc (tag : BitVec 8) (p f l : Bool) (s : State) :
    firstRaised (checksOf (.twenc tag p f l) s) = if 63 < tag.toNat then some .operandRange else none := by
  simp [checksOf]

/-- Settles O36. -/
theorem twencBuildsTweak : Obligations.TwencBuildsTweak := by
  intro tag p f l s hf
  have hne : Instr.twenc tag p f l ≠ .reset := nofun
  have hcheck := firstRaised_twenc tag p f l s
  obtain ⟨hpos, hfinal, hfirst, htype, hbitpad, hreserved⟩ := tweakWordLayout.1 l f p (tag.extractLsb' 0 6) s.pos
  refine ⟨fun hle => ?_, fun hgt => exec_raises hne hf (hcheck.trans (if_pos hgt))⟩
  have hrun := exec_runs hne hf (hcheck.trans (if_neg (Nat.not_lt.mpr hle)))
  exact ⟨_, hrun, hpos, hfinal, hfirst, htype, hbitpad, hreserved, rfl⟩

/-! ## The configuration block and CFGSER -/

/-- LE64 by arithmetic (R41): the fields are disjoint, so OR is addition. -/
theorem le64_cons (b : Byte) (bs : List Byte) : le64 (b :: bs) = b.setWidth 64 + 2 ^ 8 * le64 bs := by
  have hdisjoint : b.setWidth 64 &&& le64 bs <<< 8 = 0 := by
    ext i hi
    rcases Nat.lt_or_ge i 8 with hlt | hge
    · simp [hlt]
    · simp [BitVec.getLsbD_of_ge b i hge]
  calc le64 (b :: bs)
    _ = b.setWidth 64 ||| le64 bs <<< 8 := BitVec.or_comm _ _
    _ = b.setWidth 64 + le64 bs <<< 8 := (BitVec.add_eq_or_of_and_eq_zero _ _ hdisjoint).symm
    _ = b.setWidth 64 + 2 ^ 8 * le64 bs := by rw [BitVec.shiftLeft_eq_mul_twoPow, BitVec.mul_comm]; rfl

/-- The word of a word's eight bytes is the word (R41). -/
theorem le64_wordBytes (w : Word) : le64 (wordBytes w) = w :=
  eq_of_wordByte_eq fun k hk => by
    rw [wordByte_le64 _ hk, List.getD_eq_getElem?_getD, getElem?_wordBytes w hk, Option.getD_some]

theorem le64_zeros : ∀ n, le64 (List.replicate n 0) = 0
  | 0 => rfl
  | n + 1 => by
    rw [List.replicate_succ, le64_cons, le64_zeros n]
    rfl

/-- The word of the schema tag and the version, CBW[0] (R95). -/
theorem le64_schemaBytes : le64 [0x53, 0x48, 0x41, 0x33, 0x01, 0x00, 0x00, 0x00] = 0x0000000133414853 := by decide

/-- The word of the three tree parameters, CBW[2] (R95). -/
theorem le64_treeBytes (leaf fan height : Byte) : le64 ([leaf, fan, height] ++ List.replicate 5 0) =
    leaf.setWidth 64 + 2 ^ 8 * fan.setWidth 64 + 2 ^ 16 * height.setWidth 64 := by
  have hpow : (2 : Word) ^ 16 = 2 ^ 8 * 2 ^ 8 := by decide
  simp only [List.cons_append, List.nil_append, le64_cons, le64_zeros]
  rw [hpow, mul_zero, add_zero, mul_add, add_assoc, mul_assoc]

/-- The block is four words' bytes in turn (R95). -/
theorem wordsOf_configBytes (o : Word) (leaf fan height : Byte) : wordsOf 4 (configBytes o leaf fan height).toList =
    [le64 [0x53, 0x48, 0x41, 0x33, 0x01, 0x00, 0x00, 0x00], le64 (wordBytes o),
      le64 ([leaf, fan, height] ++ List.replicate 5 0), le64 (List.replicate 8 0)] := rfl

/-- Settles O37. -/
theorem configBlockLayout : Obligations.ConfigBlockLayout := by
  intro o leaf fan height
  refine ⟨rfl, ?_⟩
  rw [wordsOf_configBytes, le64_schemaBytes, le64_wordBytes, le64_treeBytes, le64_zeros]

/-- Settles O38: CFGSER makes no check and reads OUTLEN and TREE alone. -/
theorem cfgserSerializes : Obligations.CfgserSerializes := fun s hf =>
  ⟨cfgserEffect s, exec_runs (i := .cfgser) nofun hf firstRaised_nil, rfl, rfl⟩

end Sys2Proof.Machine
end

section
/-! PROOF. The sequence table of R100 (O39) and the order of the passes within a hash (O40). -/

namespace Sys2Proof.Machine

/-! ## The refusals and the moves of PHASE and LASTTYPE -/

/-- A command's first two checks, its configuration and its phases, refuse it where either fails (R137). -/
theorem firstRaised_sequence {c p : Bool} {P : Prop} (hp : p = true ↔ P) (h : c = false ∨ ¬P)
    (rest : List (Bool × FaultKind)) :
    firstRaised ((!c, .sequenceError) :: (!p, .sequenceError) :: rest) = some .sequenceError := by
  rcases h with rfl | h
  · rfl
  · obtain rfl : p = false := Bool.eq_false_iff.mpr (mt hp.mp h)
    cases c <;> rfl

/-- A command is refused where it needs a configuration and has none, and outside the phases that the table lists for it
(R100, R137). -/
theorem sequenceError_raised {i : Instr} {s : State}
    (h : (needsConfiguration i = true ∧ s.cfgv = false) ∨ ¬legalIn i s.phase s.lasttype) :
    firstRaised (checksOf i s) = some .sequenceError := by
  have h' : s.cfgv = false ∨ ¬legalIn i s.phase s.lasttype := h.imp_left And.right
  cases i with
  | nop | reset | setcfg | twenc | cfgser =>
    rcases h with ⟨hn, -⟩ | hl
    · cases hn
    · exact absurd trivial hl
  | uout | hinit =>
    have hc : s.cfgv = false := h'.resolve_right (not_not_intro trivial)
    simp [checksOf, hc]
  | cinit | cenc | cdec | uinit | uinitz | uupd => exact firstRaised_sequence (lowLevelPhase_iff s) h' _
  | hkey => exact firstRaised_sequence (keyPhase_iff s) h' _
  | hprs | hpk | hkdf | hnon => exact firstRaised_sequence (optionalPhase_iff _ s) h' _
  | hmblk | hmfin => exact firstRaised_sequence (messagePhase_iff s) h' _
  | hout => exact firstRaised_sequence (outputPhase_iff s) h' _

/-- A command that needs a configuration raises SequenceError without one, and outside the phases of the table (R100, R137). -/
theorem raises_sequenceError {i : Instr} (hi : needsConfiguration i = true) {s : State} (hf : s.fault = false)
    (h : s.cfgv = false ∨ ¬legalIn i s.phase s.lasttype) : Raises i 5 s := by
  have hne : i ≠ .reset := by
    rintro rfl
    cases hi
  exact exec_raises hne hf (sequenceError_raised (h.imp_left (⟨hi, ·⟩)))

/-- A command whose checks have passed is in a phase that the table lists for it. -/
theorem legalIn_of_runs {i : Instr} {s : State} (hr : firstRaised (checksOf i s) = none) :
    legalIn i s.phase s.lasttype := by
  by_contra h
  rw [sequenceError_raised (.inr h)] at hr
  cases hr

/-- A command that leaves the engine unfaulted has passed its checks and had its effect. -/
theorem exec_unfaulted {i : Instr} {s t : State} (hf : s.fault = false) (he : exec i s = .next t) (ht : t.fault = false) :
    firstRaised (checksOf i s) = none ∧ t = effectOf i s := by
  rcases exec_cases he with ⟨rfl, rfl⟩ | ⟨-, h, -⟩ | ⟨k, -, -, -, rfl⟩ | ⟨-, -, hr, rfl⟩
  · exact ⟨rfl, rfl⟩
  · exact absurd hf (by rw [h]; decide)
  · cases ht
  · exact ⟨hr, rfl⟩

/-- The table's column "PHASE afterwards" (R100). -/
theorem effectOf_phase (i : Instr) (s : State) : (effectOf i s).phase = phaseAfter i s.phase := by
  cases i <;> rfl

/-- The table's column "LASTTYPE afterwards" (R100). -/
theorem effectOf_lasttype (i : Instr) (s : State) : (effectOf i s).lasttype = lasttypeAfter i s.lasttype := by
  cases i <;> rfl

/-- Settles O39. -/
theorem phaseTableIsFollowed : Obligations.PhaseTableIsFollowed := by
  intro i s t hf he
  refine ⟨fun _ hl => ?_, fun ht => ?_⟩
  · have hi : i ≠ .reset := fun h => hl (h ▸ trivial)
    exact Host.Outcome.next.inj (he.symm.trans (exec_raises hi hf (sequenceError_raised (.inr hl))))
  · obtain ⟨-, rfl⟩ := exec_unfaulted hf he ht
    exact ⟨effectOf_phase i s, effectOf_lasttype i s⟩

/-! ## CFGDONE -/

/-- CFGDONE after a command: set by the commands that make the configuration pass where it is due, cleared by those that run
Clear(), and kept by the others (R103, R121). -/
def cfgdoneAfter (i : Instr) (done : Bool) : Bool :=
  match i with
  | .hprs | .hpk | .hkdf | .hnon | .hmblk | .hmfin _ => true
  | .reset | .setcfg | .hinit => false
  | _ => done

theorem effectOf_cfgdone (i : Instr) (s : State) : (effectOf i s).cfgdone = cfgdoneAfter i s.cfgdone := by
  cases i with
  | hprs | hpk | hkdf | hnon | hmblk | hmfin => exact ensureConfig_cfgdone s
  | hout => exact houtEffect_keeps s State.cfgdone fun _ _ => rfl
  | _ => rfl

/-- A command that sets CFGDONE leaves a tag above that of the configuration pass. -/
theorem lt_lasttypeAfter_of_cfgdone {i : Instr} (h : cfgdoneAfter i false = true) (last : BitVec 6) :
    4 < lasttypeAfter i last := by
  cases i with
  | hprs | hpk | hkdf | hnon | hmblk | hmfin => simp [lasttypeAfter]
  | _ => cases h

theorem clears_of_cfgdone {i : Instr} (h : cfgdoneAfter i true = false) : i ∈ [Instr.reset, .setcfg, .hinit] := by
  cases i with
  | reset | setcfg | hinit => decide
  | _ => cases h

/-! ## The tags of a sound state -/

section
variable {s : State} (h : SequencerSound s)
include h

/-- Every tag that LASTTYPE can hold in the phase meets a condition that LASTTYPE is to meet. -/
theorem SequencerSound.lasttype_of_phase (P : BitVec 6 → Prop) {p : Phase} (hp : s.phase = p)
    (hP : ∀ l ∈ phaseTags p, P l) : P s.lasttype :=
  hP _ (hp ▸ h.lastTag)

/-- Before the configuration pass no tag above that of the key pass has been left (R103, R116). -/
theorem SequencerSound.lasttype_eq_zero (hd : s.cfgdone = false) : s.lasttype = 0 := by
  have hc : configuredPhase s.phase = false := h.configPass.symm.trans hd
  cases hp : s.phase with
  | idle | new | keyed => exact h.lasttype_of_phase (· = 0) hp (by decide)
  | pre | msg | msgdone | done =>
    rw [hp] at hc
    cases hc

/-- An optional input follows lower tags (R100). -/
theorem SequencerSound.lasttype_lt_of_takesInput {tag : BitVec 6} (htag : 0 < tag) (hp : TakesInput tag s) :
    s.lasttype < tag := by
  rcases hp with hp | hp | ⟨-, hlt⟩
  · have hl : s.lasttype = 0 := h.lasttype_of_phase (· = 0) hp (by decide)
    exact hl ▸ htag
  · have hl : s.lasttype = 0 := h.lasttype_of_phase (· = 0) hp (by decide)
    exact hl ▸ htag
  · exact hlt

/-- A message block follows lower tags or message blocks (R100). -/
theorem SequencerSound.lasttype_lt_of_takesMessage (hp : TakesMessage s) : s.lasttype < 48 ∨ s.phase = .msg := by
  rcases hp with hp | hp | hp | hp
  · exact .inl (h.lasttype_of_phase (· < 48) hp (by decide))
  · exact .inl (h.lasttype_of_phase (· < 48) hp (by decide))
  · exact .inl (h.lasttype_of_phase (· < 48) hp (by decide))
  · exact .inr hp

/-- The passes of the optional inputs and of the output raise LASTTYPE (R116). -/
theorem SequencerSound.lasttype_ascends {i : Instr} (hi : i ∈ [Instr.hprs, .hpk, .hkdf, .hnon, .hout])
    (hl : legalIn i s.phase s.lasttype) : s.lasttype < lasttypeAfter i s.lasttype := by
  cases i with
  | hprs | hpk | hkdf | hnon => exact h.lasttype_lt_of_takesInput (by simp [lasttypeAfter]) hl
  | hout => exact h.lasttype_of_phase (· < 63) hl (by decide)
  | _ => simp at hi

end

/-- Settles O40: PHASE bounds the tag that a command finds, and the table gives the tag that it leaves. -/
theorem passesAscendByTag : Obligations.PassesAscendByTag := by
  intro i s t hinv hf he ht
  have hs := hinv.sequencer
  obtain ⟨hr, rfl⟩ := exec_unfaulted hf he ht
  have hlegal := legalIn_of_runs hr
  rw [effectOf_lasttype, effectOf_cfgdone]
  refine ⟨fun hi => hs.lasttype_ascends hi hlegal, ?_, ?_, fun hd hd' => ?_, fun hd hd' => ?_⟩
  · rintro rfl
    have hp : s.phase = .new := hlegal
    exact ⟨hp, hs.configPass.trans (by rw [hp]; rfl), rfl⟩
  · rintro (rfl | ⟨b, rfl⟩)
    · exact ⟨rfl, hs.lasttype_lt_of_takesMessage hlegal⟩
    · exact ⟨rfl, hs.lasttype_lt_of_takesMessage hlegal⟩
  · rw [hd] at hd'
    exact ⟨by rw [hs.lasttype_eq_zero hd]; decide, lt_lasttypeAfter_of_cfgdone hd' _⟩
  · rw [hd] at hd'
    exact clears_of_cfgdone hd'

end Sys2Proof.Machine
end

section
/-! PROOF. HINIT (O41). -/

namespace Sys2Proof.Machine

/-- What Clear() lists is zero after it (R121). -/
theorem cleared_clear (s : State) : Cleared (clear s) where
  twk := ⟨rfl, rfl⟩
  ts i := Vector.getElem_replicate i.isLt
  cv i := Vector.getElem_replicate i.isLt
  ks i := Vector.getElem_replicate i.isLt
  res i := Vector.getElem_replicate i.isLt
  cb i := Vector.getElem_replicate i.isLt
  obuf _ := rfl
  olen := rfl
  bpos := rfl
  ckeyed := rfl
  olm := ⟨rfl, rfl⟩
  cfgdone := rfl
  lasttype := rfl

/-- HINIT leaves what Clear() leaves, but for HOUTLEN, FIRSTPEND and PHASE (R105). -/
theorem cleared_hinitEffect (s : State) : Cleared (hinitEffect s) := by
  obtain ⟨twk, ts, cv, ks, res, cb, obuf, olen, bpos, ckeyed, olm, cfgdone, lasttype⟩ := cleared_clear s
  exact ⟨twk, ts, cv, ks, res, cb, obuf, olen, bpos, ckeyed, olm, cfgdone, lasttype⟩

/-- Settles O41. -/
theorem hinitStartsHash : Obligations.HinitStartsHash := by
  intro s hf
  refine ⟨fun hc => ?_, fun hc h8 => ?_, fun hc h8 ht => ?_, fun hc h8 ht hcap => ?_, fun hr h8 ht hcap => ?_⟩
  · exact raises_sequenceError rfl hf (.inl hc)
  · exact exec_raises (k := .outputLength) (by decide) hf (by simp [checksOf, hc, h8])
  · have htree : ¬s.tree = 0#24 := ht
    exact exec_raises (k := .operandRange) (by decide) hf (by simp [checksOf, hc, h8, htree])
  · have hlarge : outputTooLarge s = true := (exceedsObuf_iff _).mpr hcap
    exact exec_raises (k := .operandRange) (by decide) hf (by simp [checksOf, hc, h8, ht, hlarge])
  · have hrun := exec_runs (i := .hinit) (by decide) hf (hinit_runs_iff.mpr ⟨hr.configured, h8, ht, hcap⟩)
    exact ⟨_, hrun, cleared_hinitEffect s, rfl, rfl, rfl, hf, rfl, ⟨rfl, rfl, rfl⟩, effectOf_hostSideKept .hinit s⟩

end Sys2Proof.Machine
end

section
/-! PROOF. What a pass leaves, and the key pass (O42). -/

namespace Sys2Proof.Machine

/-! ## What a pass leaves -/

/-- A pass keys the cipher with the chaining value it finds (R102). -/
theorem ksWords_pass {s : State} (h : LegalCount (blockWords s)) (final first : Bool) (type : BitVec 6) (bitpad : Bool)
    (pos : Word) (m : List Word) :
    ksWords (pass final first type bitpad pos m s) = keySchedule (cvWords s) :=
  ksWords_afterPass h _ _ _ (length_cvWords h)

/-- An input longer than a block is the fault after those of the sequence (R132, R139). -/
theorem inputTooLong_raised {c p : Bool} (hc : c = true) (hp : p = true) {s : State} (h : blockBytes s < s.ilen.toNat)
    (rest : List (Bool × FaultKind)) :
    firstRaised ((!c, .sequenceError) :: (!p, .sequenceError) :: (inputTooLong s, .inputTooLong) :: rest) =
      some .inputTooLong := by
  simp [hc, hp, inputTooLong, h]

/-! ## HKEY -/

/-- Settles O42. -/
theorem hkeyAbsorbsKey : Obligations.HkeyAbsorbsKey := by
  intro s hf
  refine ⟨fun h => ?_, fun hc hp hlen => ?_, fun hr hp hlen => ?_⟩
  · exact raises_sequenceError rfl hf h
  · exact exec_raises (i := .hkey) (by decide) hf (inputTooLong_raised hc ((keyPhase_iff s).mpr hp) hlen [])
  · have hl := hr.legalCount
    have hrun := exec_runs (i := .hkey) (by decide) hf (hkey_runs_iff.mpr ⟨hr.configured, hp, hlen⟩)
    have ht : (tweakEncode true true tagKey false s.ilen).2 = 0xC000000000000000 := rfl
    have hks := ksWords_pass hl true true tagKey false s.ilen (inBlock s s.ilen.toNat)
    exact ⟨_, hrun, rfl, ht, hks, congrArg (tweakSchedule s.ilen) ht, rfl,
      cvWords_pass hl _ _ _ _ _ (length_blockOf _ _), rfl, rfl, highWordsKept_effectOf hl (i := .hkey) (by decide), rfl⟩

end Sys2Proof.Machine
end

section
/-! PROOF. The commands that make the configuration pass where it is due: HPRS, HPK, HKDF and HNON (O43), HMBLK and HMFIN
(O44, O45). `configuredChain` is the chaining value that their own pass finds. -/

namespace Sys2Proof.Machine

/-! ## The configuration pass -/

theorem ensureConfig_roundCount (s : State) : roundCount (ensureConfig s) = roundCount s :=
  (ensureConfig_onlyHashFields s).keeps roundCount fun _ _ => rfl

/-- The configuration block is that of HOUTLEN and a zero tree, once the pass is made (R103). -/
theorem ensureConfig_cb (s : State) :
    (ensureConfig s).cb = if s.cfgdone then s.cb else configBytes s.houtlen 0 0 0 := by
  rcases ensureConfig_cases s with ⟨hd, e⟩ | ⟨hd, e⟩ <;> rw [e, hd] <;> rfl

/-! ## HPRS, HPK, HKDF and HNON -/

/-- The chaining value after an optional input (R104, R107 to R110). -/
theorem cvWords_optionalEffect {s : State} (h : LegalCount (blockWords s)) (tag : BitVec 6) :
    cvWords (optionalEffect tag s) = hashStep (blockWords s) (roundCount s) (configuredChain s) true true tag false s.ilen
      (inBlock s s.ilen.toNat) := by
  rw [optionalEffect, optPass_eq_pass, ← ensureConfig_blockWords s, ← ensureConfig_roundCount s, ← cvWords_ensureConfig h,
    ← inBlock_ensureConfig s, ← ensureConfig_ilen s]
  rw [← ensureConfig_blockWords s] at h
  generalize ensureConfig s = u at h ⊢
  exact cvWords_pass h true true tag false u.ilen (length_blockOf _ _)

/-- The pass of an optional input is keyed with the chaining value after the configuration pass. -/
theorem ksWords_optionalEffect {s : State} (h : LegalCount (blockWords s)) (tag : BitVec 6) :
    ksWords (optionalEffect tag s) = keySchedule (configuredChain s) := by
  rw [optionalEffect, optPass_eq_pass, ← cvWords_ensureConfig h]
  rw [← ensureConfig_blockWords s] at h
  generalize ensureConfig s = u at h ⊢
  exact ksWords_pass h true true tag false u.ilen (inBlock u u.ilen.toNat)

/-- An optional input leaves BPOS and FIRSTPEND too. -/
theorem optionalEffect_restores (tag : BitVec 6) (s : State) : { optionalEffect tag s with
    twk0 := s.twk0, twk1 := s.twk1, ks := s.ks, ts := s.ts, ckeyed := s.ckeyed, cv := s.cv, cb := s.cb,
    cfgdone := s.cfgdone, phase := s.phase, lasttype := s.lasttype } = s := by
  obtain ⟨cb, t0, t1, ks, ts, ck, cv, cd, ph, lt, e⟩ := optionalEffect_frame tag s
  rw [e]

/-- The commands of the optional inputs with their tags and the tweak words of their passes. -/
theorem optional_rows {i : Instr} {tag : BitVec 6} {t1 : Word}
    (h : (i, tag, t1) ∈ ([(.hprs, 8, 0xC800000000000000), (.hpk, 12, 0xCC00000000000000),
      (.hkdf, 16, 0xD000000000000000), (.hnon, 20, 0xD400000000000000)] : List (Instr × BitVec 6 × Word))) :
    (∀ s, exec i s = optionalCommand tag s) ∧ ∀ pos, (tweakEncode true true tag false pos).2 = t1 := by
  simp only [List.mem_cons, List.not_mem_nil, or_false, Prod.mk.injEq] at h
  rcases h with ⟨rfl, rfl, rfl⟩ | ⟨rfl, rfl, rfl⟩ | ⟨rfl, rfl, rfl⟩ | ⟨rfl, rfl, rfl⟩ <;>
    exact ⟨fun _ => rfl, fun _ => rfl⟩

/-- Settles O43. -/
theorem optionalInputsAreAbsorbed : Obligations.OptionalInputsAreAbsorbed := by
  intro i tag t1 s hmem hf
  obtain ⟨hexec, ht⟩ := optional_rows hmem
  have hphase := optionalPhase_iff tag s
  refine ⟨fun h => ?_, fun hc hp hlen => ?_, fun hr hp hlen => ?_⟩
  · exact (hexec s).trans (command_raises hf (firstRaised_sequence hphase h _))
  · exact (hexec s).trans (command_raises hf (inputTooLong_raised hc (hphase.mpr hp) hlen []))
  · have hl := hr.legalCount
    have hilen := ensureConfig_ilen s
    have hrun := (hexec s).trans (command_runs hf (optional_runs_iff.mpr ⟨hr.configured, hp, hlen⟩))
    exact ⟨_, configuredChain s, hrun, rfl, ensureConfig_cb s, ensureConfig_cfgdone s, hilen, ht s.ilen,
      ksWords_optionalEffect hl tag, congrArg₂ tweakSchedule hilen (ht s.ilen), rfl, cvWords_optionalEffect hl tag, rfl, rfl,
      highWordsKept_optionalEffect hl tag, optionalEffect_restores tag s⟩

/-! ## Message blocks -/

section
variable (final bitpad : Bool) (n : Nat) (m : List Word) (after : Phase) (s : State)

/-- The position of a message block is the end of its bytes (R111, R112). -/
theorem toNat_messageBlock_bpos (h : s.bpos.toNat + n ≤ 2 ^ 64 - 1) :
    (messageBlock final bitpad n m after s).bpos.toNat = s.bpos.toNat + n := by
  change ((ensureConfig s).bpos + BitVec.ofNat 64 n).toNat = _
  rw [ensureConfig_bpos, BitVec.toNat_add, BitVec.toNat_ofNat, Nat.add_mod_mod, Nat.mod_eq_of_lt (by omega)]

/-- A message block is the first one where FIRSTPEND was set (R111, R112). -/
theorem messageBlock_twk1 : (messageBlock final bitpad n m after s).twk1 =
    (tweakEncode final s.firstpend tagMsg bitpad (messageBlock final bitpad n m after s).bpos).2 := by
  rw [← ensureConfig_firstpend s]
  rfl

variable {m s} (h : LegalCount (blockWords s))
include h

/-- The pass of a message block is keyed with the chaining value after the configuration pass. -/
theorem ksWords_messageBlock :
    ksWords (messageBlock final bitpad n m after s) = keySchedule (configuredChain s) := by
  rw [messageBlock_eq, ← cvWords_ensureConfig h]
  rw [← ensureConfig_blockWords s] at h
  generalize ensureConfig s = u at h ⊢
  exact ksWords_pass (s := setBpos (u.bpos + BitVec.ofNat 64 n) u) h final u.firstpend tagMsg bitpad _ m

/-- The chaining value after a message block (R111, R112). -/
theorem cvWords_messageBlock (hm : m.length = blockWords s) : cvWords (messageBlock final bitpad n m after s) =
    hashStep (blockWords s) (roundCount s) (configuredChain s) final s.firstpend 48 bitpad
      (messageBlock final bitpad n m after s).bpos m := by
  rw [messageBlock_eq, ← ensureConfig_blockWords s, ← ensureConfig_roundCount s, ← cvWords_ensureConfig h,
    ← ensureConfig_firstpend s]
  rw [← ensureConfig_blockWords s] at h hm
  generalize ensureConfig s = u at h hm ⊢
  exact cvWords_pass (s := setBpos (u.bpos + BitVec.ofNat 64 n) u) h final u.firstpend tagMsg bitpad _ hm

end

/-- The tweak word of a message block that is not the last (R111). -/
theorem tweakEncode_message (first : Bool) (pos : Word) : (tweakEncode false first tagMsg false pos).2 =
    if first then 0x7000000000000000 else 0x3000000000000000 := by
  cases first <;> rfl

/-- The tweak word of the last message block (R112). -/
theorem tweakEncode_lastMessage (first bitpad : Bool) (pos : Word) : (tweakEncode true first tagMsg bitpad pos).2 =
    (if first then 0xF000000000000000 else 0xB000000000000000) ||| (if bitpad then 0x0080000000000000 else 0) := by
  cases first <;> cases bitpad <;> rfl

/-- Settles O44. -/
theorem hmblkAbsorbsFullBlock : Obligations.HmblkAbsorbsFullBlock := by
  intro s hf
  refine ⟨fun h => ?_, fun hc hp hpos => ?_, fun hr hp hpos => ?_⟩
  · exact raises_sequenceError rfl hf h
  · have hphase := (messagePhase_iff s).mpr hp
    have hover : positionOverflow s (blockBytes s) = true := decide_eq_true hpos
    exact exec_raises (i := .hmblk) (k := .operandRange) (by decide) hf (by simp [checksOf, hc, hphase, hover])
  · have hl := hr.legalCount
    have hrun := exec_runs (i := .hmblk) (by decide) hf (hmblk_runs_iff.mpr ⟨hr.configured, hp, hpos⟩)
    exact ⟨_, configuredChain s, hrun, rfl, ensureConfig_cb s, ensureConfig_cfgdone s,
      toNat_messageBlock_bpos _ _ _ _ _ s hpos, rfl, (messageBlock_twk1 _ _ _ _ _ s).trans (tweakEncode_message _ _),
      ksWords_messageBlock _ _ _ _ hl, rfl, rfl, cvWords_messageBlock _ _ _ _ hl (length_blkWords hl), rfl, rfl, rfl,
      highWordsKept_messageBlock hl _ _ _ (length_blkWords hl) _, messageBlock_onlyHashFields _ _ _ _ _ s⟩

/-- HMFIN refuses an empty last block, but for that of the empty message without bit padding (R112). -/
theorem emptyLastBlock_iff {b : Bool} {s : State} :
    emptyLastBlock b s = true ↔ s.ilen = 0 ∧ (s.firstpend = false ∨ b = true) := by
  rw [emptyLastBlock, Bool.and_eq_true, beq_iff_eq, Bool.or_eq_true, Bool.not_eq_true']

theorem emptyLastBlock_eq_false {b : Bool} {s : State} (h : s.ilen ≠ 0 ∨ (s.firstpend = true ∧ b = false)) :
    emptyLastBlock b s = false := by
  refine Bool.eq_false_iff.mpr fun he => ?_
  obtain ⟨h0, h1⟩ := emptyLastBlock_iff.mp he
  rcases h with h | ⟨hfirst, hb⟩
  · exact h h0
  · simp [hfirst, hb] at h1

/-- Settles O45. -/
theorem hmfinAbsorbsLastBlock : Obligations.HmfinAbsorbsLastBlock := by
  intro b s hf
  have hne : Instr.hmfin b ≠ .reset := nofun
  refine ⟨fun h => ?_, fun hc hp hlen => ?_, fun hc hp hlen h => ?_, fun hr hp hlen hnonempty hpos => ?_⟩
  · exact raises_sequenceError rfl hf h
  · exact exec_raises hne hf (inputTooLong_raised hc ((messagePhase_iff s).mpr hp) hlen _)
  · have hphase := (messagePhase_iff s).mpr hp
    have hfits := inputTooLong_eq_false.mpr hlen
    have hrange : emptyLastBlock b s = true ∨ positionOverflow s s.ilen.toNat = true :=
      h.imp emptyLastBlock_iff.mpr decide_eq_true
    refine exec_raises (k := .operandRange) hne hf ?_
    rcases hrange with hrange | hrange <;> simp [checksOf, hc, hphase, hfits, hrange]
  · have hl := hr.legalCount
    have hrun := exec_runs hne hf
      (hmfin_runs_iff.mpr ⟨hr.configured, hp, hlen, emptyLastBlock_eq_false hnonempty, hpos⟩)
    exact ⟨_, configuredChain s, hrun, rfl, ensureConfig_cb s, ensureConfig_cfgdone s,
      toNat_messageBlock_bpos _ _ _ _ _ s hpos, rfl, (messageBlock_twk1 _ _ _ _ _ s).trans (tweakEncode_lastMessage _ _ _),
      ksWords_messageBlock _ _ _ _ hl, rfl, rfl, cvWords_messageBlock _ _ _ _ hl (length_blockOf _ _), rfl, rfl, rfl,
      highWordsKept_messageBlock hl _ _ _ (length_blockOf _ _) _, messageBlock_onlyHashFields _ _ _ _ _ s⟩

end Sys2Proof.Machine
end

section
/-! PROOF. HOUT (O46) and the delivery of the generated bytes (O47). -/

namespace Sys2Proof.Machine

/-! ## Delivery -/

section
variable (want : Nat) (raw : List Byte) (s : State)

/-- The buffer after delivery: the first bytes, up to the wanted count, and zeroes after them (R114). -/
theorem memRead_deliver (k : Nat) : memRead (deliver want raw s).obuf k = (raw.take want).getD k 0 :=
  memRead_stored (raw.take want) k

theorem deliver_obuf_wf : (deliver want raw s).obuf.wf = true := memWriteBytes_wf _ _ memory_empty_wf

/-- OLEN is the count of the bytes kept (R114). -/
theorem toNat_deliver_olen (h : want < 2 ^ 64) : (deliver want raw s).olen.toNat = (raw.take want).length := by
  have hlen : (raw.take want).length ≤ want := List.length_take_le want raw
  rw [deliver_olen, BitVec.toNat_ofNat, Nat.mod_eq_of_lt (by omega)]

end

/-- Settles O47. -/
theorem truncationAndShortfall : Obligations.TruncationAndShortfall := by
  intro want raw s hw
  refine ⟨raw.take want, List.take_of_length_le, fun h => ⟨rfl, List.length_take_of_le (Nat.le_of_lt h)⟩,
    fun k _ => memRead_deliver want raw s k, fun k hk => ?_, deliver_obuf_wf want raw s, toNat_deliver_olen want raw s hw,
    rfl, rfl, rfl⟩
  rw [memRead_deliver, List.getD_eq_default _ _ hk]

/-! ## The output blocks -/

/-- The position of the first output block is 8 (R115). -/
theorem outPos_eq (i : Nat) : outPos i = if i = 0 then 8 else outPos i := by
  cases i with
  | zero => rfl
  | succ i => rw [if_neg (Nat.succ_ne_zero i)]

/-- The output bytes are those of the chaining values after each block (R113). -/
theorem hashOutput_bytes (nw nr n : Nat) (g : List Word) : ∀ k, (hashOutput nw nr n k g).2 =
    (List.range k).flatMap fun i => bytesOf (hashOutput nw nr n (i + 1) g).1
  | 0 => rfl
  | k + 1 => by
    rw [List.range_succ, List.flatMap_append, ← hashOutput_bytes nw nr n g k, List.flatMap_singleton]
    rfl

/-- The tweak word of the last output block, which is the first one too where there is only one (R113). -/
theorem outputTweak_last (m : Nat) : outputTweak (m + 1) (m + 1) m =
    if m = 0 then 0xFF00000000000000 else 0xBF00000000000000 := by
  rw [outputTweak, decide_eq_true rfl]
  cases m with
  | zero => rfl
  | succ m =>
    rw [decide_eq_false (Nat.succ_ne_zero m), if_neg (Nat.succ_ne_zero m)]
    rfl

theorem le_ceilDiv_mul (a : Nat) {b : Nat} (hb : 0 < b) : a ≤ ceilDiv a b * b := by
  have hlt : a + b - 1 < b * (ceilDiv a b + 1) := Nat.lt_mul_div_succ _ hb
  rw [Nat.mul_add, Nat.mul_comm b] at hlt
  omega

/-- The output blocks cover the bytes of the output, whatever its length in bits (R113). -/
theorem div_le_outputBlockCount {s : State} (h : 0 < blockWords s) (bits : Word) :
    bits.toNat / 8 ≤ outputBlockCount s bits * blockBytes s := by
  have hbits : bits.toNat ≤ outputBlockCount s bits * (64 * blockWords s) := le_ceilDiv_mul _ (by omega)
  have he : outputBlockCount s bits * (64 * blockWords s) = 8 * (outputBlockCount s bits * blockBytes s) := by
    rw [blockBytes_eq]
    ring
  omega

/-- The chaining value after `i` of the output blocks (R113). -/
def outputChain (s : State) (i : Nat) : List Word :=
  (hashOutput (blockWords s) (roundCount s) (outputBlockCount s s.houtlen) i (cvWords s)).1

/-- The bytes of all output blocks (R113). -/
def outputBytes (s : State) : List Byte :=
  (hashOutput (blockWords s) (roundCount s) (outputBlockCount s s.houtlen) (outputBlockCount s s.houtlen) (cvWords s)).2

/-- The state after all output blocks, before delivery. -/
def afterOutput (s : State) : State := (outputBlocks (outputBlockCount s s.houtlen) (outputBlockCount s s.houtlen) s).1

/-- Each output block is R117's step from the chaining value that the block before it left. -/
theorem outputChain_succ (s : State) (i : Nat) : outputChain s (i + 1) =
    hashStep (blockWords s) (roundCount s) (outputChain s i) (decide (i + 1 = outputBlockCount s s.houtlen))
      (decide (i = 0)) 63 false (if i = 0 then 8 else outPos i)
      (BitVec.ofNat 64 i :: List.replicate (blockWords s - 1) 0) := by
  rw [← outPos_eq]
  rfl

theorem afterOutput_olm (s : State) :
    (afterOutput s).olmShort = s.olmShort ∧ (afterOutput s).olmTrunc = s.olmTrunc := by
  obtain ⟨t0, t1, ks, ts, ck, cv, e⟩ := outputBlocks_frame (outputBlockCount s s.houtlen) s (outputBlockCount s s.houtlen)
  rw [afterOutput, e]
  exact ⟨rfl, rfl⟩

theorem afterOutput_of_none {s : State} (h : outputBlockCount s s.houtlen = 0) : afterOutput s = s := by
  rw [afterOutput, h]
  rfl

theorem afterOutput_keeps_of_none {s : State} (h : outputBlockCount s s.houtlen = 0) :
    (afterOutput s).twk0 = s.twk0 ∧ (afterOutput s).twk1 = s.twk1 ∧ (afterOutput s).ks = s.ks ∧
    (afterOutput s).ts = s.ts ∧ (afterOutput s).ckeyed = s.ckeyed := by
  rw [afterOutput_of_none h]
  exact ⟨rfl, rfl, rfl, rfl, rfl⟩

section
variable {s : State} (h : LegalCount (blockWords s))
include h

theorem length_outputBytes : (outputBytes s).length = outputBlockCount s s.houtlen * blockBytes s :=
  length_hashOutput_bytes h _ _ (length_cvWords h) _

/-- HOUT is the output blocks and the delivery of their bytes (R113, R114). -/
theorem houtEffect_eq_deliver : houtEffect s =
    setLasttype tagOut (setPhase .done (deliver (s.houtlen.toNat / 8) (outputBytes s) (afterOutput s))) := by
  rw [outputBytes, ← (outputBlocks_eq h _ _).1]
  rfl

/-- The last of the output blocks, if there is one, keys the cipher with the chaining value of the block before it, and its
tweak is left in TWK (R102, R113). -/
theorem afterOutput_of_succ {m : Nat} (hn : outputBlockCount s s.houtlen = m + 1) :
    afterOutput s = afterPass (if m = 0 then 8 else outPos m)
      (if m = 0 then 0xFF00000000000000 else 0xBF00000000000000) (outputChain s m) (outputChain s (m + 1)) s := by
  rw [← outPos_eq, ← outputTweak_last, afterOutput, outputChain, outputChain, hn]
  rcases (outputBlocks_eq h (m + 1) (m + 1)).2 with ⟨h0, -⟩ | ⟨j, hj, e⟩
  · cases h0
  · cases hj
    exact e

theorem length_outputChain (i : Nat) : (outputChain s i).length = blockWords s :=
  length_hashOutput h _ _ (length_cvWords h) i

/-- The tweak and the schedules are those of the last output block (R102, R113). -/
theorem afterOutput_schedules {m : Nat} (hn : outputBlockCount s s.houtlen = m + 1) :
    (afterOutput s).twk0 = (if m = 0 then 8 else outPos m) ∧
    (afterOutput s).twk1 = (if m = 0 then 0xFF00000000000000 else 0xBF00000000000000) ∧
    ksWords (afterOutput s) = keySchedule (outputChain s m) ∧
    (afterOutput s).ts = tweakSchedule (afterOutput s).twk0 (afterOutput s).twk1 ∧ (afterOutput s).ckeyed = true := by
  rw [afterOutput_of_succ h hn]
  exact ⟨rfl, rfl, ksWords_afterPass h _ _ _ (length_outputChain h m), rfl, rfl⟩

theorem cvWords_afterOutput : cvWords (afterOutput s) = outputChain s (outputBlockCount s s.houtlen) := by
  cases hn : outputBlockCount s s.houtlen with
  | zero =>
    rw [afterOutput_of_none hn]
    rfl
  | succ m => rw [afterOutput_of_succ h hn, cvWords_afterPass h _ _ _ (length_outputChain h _)]

end

/-- Settles O46. -/
theorem houtDeliversDigest : Obligations.HoutDeliversDigest := by
  intro s hf
  refine ⟨fun h => raises_sequenceError rfl hf h, fun hr hp => ?_⟩
  have hl := hr.legalCount
  have hrun := exec_runs (i := .hout) (by decide) hf (hout_runs_iff.mpr ⟨hr.configured, hp⟩)
  have hhigh := highWordsKept_effectOf hl (i := .hout) (by decide)
  have hframe := houtEffect_frame s
  have hlen := length_outputBytes hl
  have hcover := hlen ▸ div_le_outputBlockCount (legalCount_pos hl) s.houtlen
  have hkept : ((outputBytes s).take (s.houtlen.toNat / 8)).length = s.houtlen.toNat / 8 := List.length_take_of_le hcover
  obtain ⟨hshort, htrunc⟩ := afterOutput_olm s
  rw [effectOf, houtEffect_eq_deliver hl] at hrun hhigh
  rw [houtEffect_eq_deliver hl] at hframe
  refine ⟨_, outputBlockCount s s.houtlen, outputChain s, outputBytes s, hrun, rfl, rfl, fun i _ => outputChain_succ s i,
    hashOutput_bytes _ _ _ _ _, hlen, hcover, fun k hk => ?_, fun k hk => ?_, deliver_obuf_wf _ _ (afterOutput s), ?_, ?_, ?_,
    cvWords_afterOutput hl, afterOutput_keeps_of_none, fun _ => afterOutput_schedules hl, rfl, rfl, hhigh, hframe⟩
  · rw [List.getD_eq_getElem?_getD, ← List.getElem?_take_of_lt hk, ← List.getD_eq_getElem?_getD]
    exact memRead_deliver _ _ (afterOutput s) k
  · exact (memRead_deliver _ _ (afterOutput s) k).trans (List.getD_eq_default _ _ (hkept.trans_le hk))
  · have hwant : s.houtlen.toNat / 8 < 2 ^ 64 := Nat.lt_of_le_of_lt (Nat.div_le_self _ _) s.houtlen.isLt
    exact (toNat_deliver_olen _ _ (afterOutput s) hwant).trans hkept
  · exact (olmShortAfter_of_le hcover _).trans hshort
  · rw [← hlen, ← htrunc]
    rfl

end Sys2Proof.Machine
end

section
/-! PROOF. Engine control: NOP, RESET and SETCFG (O19, O20, O21). -/

namespace Sys2Proof.Machine

/-! ## An opcode byte with a stray bit -/

/-- Where the row of the opcode byte has no fields, the only value with that opcode byte that is a command is the row's own
command word (R51, R53). -/
theorem decode_error_of_noFields {w : Word} {opc : BitVec 8} {i : Instr}
    (hrow : rows.find? (fun r => r.opc == opc) = some ⟨opc, 0xFFFFFFFF, fun _ => i⟩) (hopc : w.extractLsb' 0 8 = opc)
    (hne : w ≠ encode i) : ∃ e, decode w = .error e := by
  cases hd : decode w with
  | error e => exact ⟨e, rfl⟩
  | ok j =>
    obtain ⟨-, r, hr, -, hj⟩ := decode_eq_ok_iff.mp hd
    have hbyte : (w.extractLsb' 0 32).extractLsb' 0 8 = opc := (BitVec.extractLsb'_extractLsb'_of_le (by decide)).trans hopc
    rw [hbyte, hrow] at hr
    cases hr
    cases hj
    exact absurd (encodeOfDecode w i hd).symm hne

/-- A value that is no command faults with IllegalCommand, and is ignored while FAULT = 1 (R134, R136). -/
theorem writeCmd_illegal {w : Word} (h : ∃ e, decode w = .error e) (s : State) :
    (s.fault = false → writeCmd w s = .next { s with fault := true, err := 4 }) ∧
      (s.fault = true → writeCmd w s = .next s) := by
  obtain ⟨e, he⟩ := h
  rw [writeCmd_error he]
  exact ⟨fun hf => command_raises (k := .illegalCommand) hf rfl, command_faulted⟩

/-! ## RESET and NOP -/

/-- RESET leaves what Clear() leaves: fault return writes none of it (R121). -/
theorem cleared_reset (s : State) : Cleared (faultReturn (clear s)) := cleared_clear (faultReturn s)

/-- Settles O20. -/
theorem resetCommandClears : Obligations.ResetCommandClears := by
  intro s
  refine ⟨⟨faultReturn (clear s), rfl, ?_⟩, fun w hopc hne => ?_⟩
  · have hcmd := writeCmd_ok (w := 1) (i := .reset) rfl s
    have hconf := effectOf_configurationKept (i := .reset) (by decide) s
    exact ⟨hcmd, cleared_reset s, rfl, rfl, rfl, rfl, rfl, hconf, effectOf_hostSideKept .reset s⟩
  · exact writeCmd_illegal (decode_error_of_noFields (i := .reset) rfl hopc hne) s

/-- NOP changes nothing, whether it is ignored or has its effect (R120, R134). -/
theorem exec_nop (s : State) : exec .nop s = .next s := by
  rw [exec_eq (by decide)]
  cases hf : s.fault with
  | true => exact command_faulted hf
  | false => exact command_runs hf rfl

/-- Settles O19. -/
theorem nopChangesNothing : Obligations.NopChangesNothing := by
  intro s
  refine ⟨exec_nop s, (writeCmd_ok (i := .nop) rfl s).trans (exec_nop s), fun w hopc hne => ?_⟩
  exact (writeCmd_illegal (decode_error_of_noFields (i := .nop) rfl hopc hne) s).1

/-! ## SETCFG -/

/-- The word count of a supported block size is a legal one (R26, R122). -/
theorem legalBlockWords_of_supported {b : Word} (h : b = 256 ∨ b = 512 ∨ b = 1024) : LegalBlockWords (b / 64) := by
  rcases h with rfl | rfl | rfl
  · exact .inl rfl
  · exact .inr (.inl rfl)
  · exact .inr (.inr rfl)

/-- SETCFG leaves what Clear() leaves: the configuration is none of it (R122). -/
theorem cleared_setcfgEffect (s : State) : Cleared (setcfgEffect s) :=
  cleared_clear (setConfiguration (s.bsize / 64) s.rounds s)

/-- An unsupported block size is SETCFG's fault whatever the round count (R122, R139). -/
theorem setcfg_raises_blockSize {s : State} (h : ¬(s.bsize = 256 ∨ s.bsize = 512 ∨ s.bsize = 1024)) :
    firstRaised (checksOf .setcfg s) = some .blockSize := by
  have hb : blockSizeSupported s.bsize = false := Bool.eq_false_iff.mpr fun hs => h (blockSizeSupported_iff.mp hs)
  simp [checksOf, hb]

/-- With a supported block size, the round count is checked (R122, R139). -/
theorem setcfg_raises_rounds {s : State} (hb : s.bsize = 256 ∨ s.bsize = 512 ∨ s.bsize = 1024)
    (h : ¬(s.rounds ≠ 0 ∧ s.rounds.toNat % 4 = 0)) : firstRaised (checksOf .setcfg s) = some .rounds := by
  have hr : roundsSupported s.rounds = false := Bool.eq_false_iff.mpr fun hs => h (roundsSupported_iff.mp hs)
  simp [checksOf, blockSizeSupported_iff.mpr hb, hr]

/-- Settles O21. -/
theorem setcfgSelectsConfiguration : Obligations.SetcfgSelectsConfiguration := by
  intro s hf
  refine ⟨fun hb h0 h4 => ?_, fun ⟨h256, h512, h1024⟩ => ?_, fun hb hr => ?_⟩
  · have hrun := exec_runs (i := .setcfg) (by decide) hf (setcfg_runs_iff.mpr ⟨hb, h0, h4⟩)
    exact ⟨_, hrun, BitVec.toNat_udiv, legalBlockWords_of_supported hb, rfl, rfl, cleared_setcfgEffect s, rfl, rfl, rfl, hf,
      rfl, effectOf_hostSideKept .setcfg s⟩
  · have hbad : ¬(s.bsize = 256 ∨ s.bsize = 512 ∨ s.bsize = 1024) :=
      not_or.mpr ⟨h256, not_or.mpr ⟨h512, h1024⟩⟩
    exact exec_raises (i := .setcfg) (by decide) hf (setcfg_raises_blockSize hbad)
  · have hbad : ¬(s.rounds ≠ 0 ∧ s.rounds.toNat % 4 = 0) := fun ⟨h0, h4⟩ => hr.elim h0 (· h4)
    exact exec_raises (i := .setcfg) (by decide) hf (setcfg_raises_rounds hb hbad)

end Sys2Proof.Machine
end

section
/-! PROOF. Faults (O3, O14 to O16): which values written to CMD are commands, what a fault writes, and which moves of the host
enter and leave the faulted condition. -/

namespace Sys2Proof

/-! ## The values that are commands -/

/-- No command's word is one of R136's illegal values. -/
theorem wordLegal_encode (i : Instr) : wordLegal (encode i) = true := by
  cases i with
  | twenc tag bitpad first final => exact Laws.EncodedLegal.twenc tag bitpad first final
  | hmfin bitpad => exact Laws.EncodedLegal.hmfin bitpad
  | _ => decide

/-- A value with bits 63:19 zero is the command word of its own opcode byte and fields (R50). -/
theorem commandOf_of_clear {w : Word} (hu : w.extractLsb' 32 32 = 0) (hr : w.extractLsb' 19 13 = 0) :
    commandOf (w.extractLsb' 0 8) (w.extractLsb' 8 8) (w.getLsbD 16) (w.getLsbD 17) (w.getLsbD 18) = w := by
  have hreserved : (w.extractLsb' 0 32).extractLsb' 19 13 = 0 :=
    (BitVec.extractLsb'_extractLsb'_of_le (by decide)).trans hr
  have hopc : (w.extractLsb' 0 32).extractLsb' 0 8 = w.extractLsb' 0 8 := BitVec.extractLsb'_extractLsb'_of_le (by decide)
  have htype : fieldType (w.extractLsb' 0 32) = w.extractLsb' 8 8 := BitVec.extractLsb'_extractLsb'_of_le (by decide)
  have hbit : ∀ i < 32, (w.extractLsb' 0 32).getLsbD i = w.getLsbD i := fun i hi => by
    rw [BitVec.getLsbD_extractLsb', decide_eq_true hi, Bool.true_and, Nat.zero_add]
  have hcmd := commandOf_eq_append hreserved
  rw [hopc, htype, fieldBitpad, fieldFirst, fieldFinal, hbit 16 (by decide), hbit 17 (by decide),
    hbit 18 (by decide)] at hcmd
  calc commandOf (w.extractLsb' 0 8) (w.extractLsb' 8 8) (w.getLsbD 16) (w.getLsbD 17) (w.getLsbD 18)
    _ = 0#32 ++ w.extractLsb' 0 32 := hcmd
    _ = w.extractLsb' 32 32 ++ w.extractLsb' 0 32 := by rw [hu]; rfl
    _ = w := BitVec.extractLsb'_append_extractLsb'

/-- The opcodes are those of the rows (R51). -/
theorem opcodes_eq : opcodes = rows.map Row.opc := rfl

/-- An opcode with all fields zero is the word of its row's command (R51). -/
theorem encode_build_zero {r : Row} (hr : r ∈ rows) : encode (r.build 0) = commandOf r.opc 0 false false false := by
  revert r
  decide

/-- R136's conditions, each as a fact about the value's fields. -/
theorem wordLegal_iff {w : Word} : wordLegal w = true ↔ w.extractLsb' 32 32 = 0 ∧ w.extractLsb' 19 13 = 0 ∧
    w.extractLsb' 0 8 ∈ opcodes ∧
    (w.extractLsb' 0 8 = 0x30 ∨ w.extractLsb' 8 8 = 0 ∧ w.getLsbD 17 = false ∧ w.getLsbD 18 = false) ∧
    (w.extractLsb' 0 8 = 0x30 ∨ w.extractLsb' 0 8 = 0x47 ∨ w.getLsbD 16 = false) := by
  change (_ == _ && _ == _ && opcodes.contains _ && (_ == _ || _ == _ && !_ && !_) && (_ == _ || _ == _ || !_)) = true ↔ _
  simp only [Bool.and_eq_true, Bool.or_eq_true, beq_iff_eq, List.contains_iff_mem, Bool.not_eq_true', and_assoc, or_assoc]

/-- A value for which none of R136's conditions holds is the word of a command. -/
theorem exists_encode_of_wordLegal {w : Word} (h : wordLegal w = true) : ∃ i, encode i = w := by
  obtain ⟨hu, hr, hopc, htweak, hbitpad⟩ := Iff.mp wordLegal_iff h
  have hw := commandOf_of_clear hu hr
  by_cases htwenc : w.extractLsb' 0 8 = 0x30
  · rw [htwenc] at hw
    exact ⟨.twenc _ _ _ _, hw⟩
  obtain ⟨htype, hfirst, hfinal⟩ := htweak.resolve_left htwenc
  rw [htype, hfirst, hfinal] at hw
  rcases hbitpad.resolve_left htwenc with hhmfin | hb
  · rw [hhmfin] at hw
    exact ⟨.hmfin _, hw⟩
  · rw [hb] at hw
    obtain ⟨r, hrow, hopc⟩ := List.mem_map.mp (opcodes_eq ▸ hopc)
    rw [← hopc] at hw
    exact ⟨_, (encode_build_zero hrow).trans hw⟩

/-- The decoder accepts exactly the values for which none of R136's conditions holds. -/
theorem wordLegal_iff_decode {w : Word} : wordLegal w = true ↔ ∃ i, decode w = .ok i := by
  constructor
  · intro h
    obtain ⟨i, rfl⟩ := exists_encode_of_wordLegal h
    exact ⟨i, decodeOfEncode i⟩
  · rintro ⟨i, hi⟩
    rw [← encodeOfDecode w i hi]
    exact wordLegal_encode i

theorem decode_error_of_wordLegal {w : Word} (h : wordLegal w = false) : ∃ e, decode w = .error e := by
  cases hd : decode w with
  | error e => exact ⟨e, rfl⟩
  | ok i =>
    rw [Iff.mpr wordLegal_iff_decode ⟨i, hd⟩] at h
    cases h

end Sys2Proof

namespace Sys2Proof.Machine

/-! ## The fault that a command raises -/

theorem faultCode_injective : Function.Injective faultCode := by
  intro k k'
  cases k <;> cases k' <;> decide

/-- A fault is raised by a check with it that is the first, or by those after it (R139). -/
theorem firstRaised_cons_self {b : Bool} {k : FaultKind} {rest : List (Bool × FaultKind)} :
    firstRaised ((b, k) :: rest) = some k ↔ b = true ∨ firstRaised rest = some k := by
  cases b <;> simp

/-- A fault is raised after a check for another one only if that check does not hold (R139). -/
theorem firstRaised_cons_of_ne {b : Bool} {k k' : FaultKind} (h : k ≠ k') {rest : List (Bool × FaultKind)} :
    firstRaised ((b, k) :: rest) = some k' ↔ b = false ∧ firstRaised rest = some k' := by
  cases b <;> simp [h]

/-- A fault that is raised is that of a check. -/
theorem mem_of_firstRaised {k : FaultKind} {cs : List (Bool × FaultKind)} (h : firstRaised cs = some k) :
    (true, k) ∈ cs := by
  induction cs with
  | nil => cases h
  | cons c cs ih =>
    obtain ⟨b, k'⟩ := c
    cases b with
    | true =>
      cases h
      exact List.mem_cons_self
    | false => exact List.mem_cons_of_mem _ (ih h)

/-- No command has a check for IllegalCommand: it is decided from the value alone (R136). -/
theorem ne_illegalCommand_of_raised {i : Instr} {s : State} {k : FaultKind} (h : firstRaised (checksOf i s) = some k) :
    k ≠ .illegalCommand := by
  rintro rfl
  have hmem := mem_of_firstRaised h
  cases i <;> simp [checksOf] at hmem

/-- No effect sets FAULT (R133). -/
theorem effectOf_fault {s : State} (hf : s.fault = false) (i : Instr) : (effectOf i s).fault = false := by
  cases i with
  | reset => rfl
  | setcfg | hinit | cenc | cdec | uout => exact hf
  | hout => exact (houtEffect_keeps s State.fault fun _ _ => rfl).trans hf
  | _ => exact ((effectOf_onlyHashFields rfl s).keeps State.fault fun _ _ => rfl).trans hf

/-- A command that faults raised the fault of one of its checks, and only that (R133). -/
theorem exec_raised {i : Instr} {s t : State} (hf : s.fault = false) (he : exec i s = .next t) (ht : t.fault = true) :
    ∃ k, firstRaised (checksOf i s) = some k ∧ t = raise k s := by
  have heffect : t ≠ effectOf i s := by
    rintro rfl
    cases ht.symm.trans (effectOf_fault hf i)
  rcases exec_cases he with ⟨rfl, h⟩ | ⟨-, h, -⟩ | ⟨k, -, -, hk, h⟩ | ⟨-, -, -, h⟩
  · exact absurd h heffect
  · cases hf.symm.trans h
  · exact ⟨k, hk, h⟩
  · exact absurd h heffect

/-- A command ends with a code exactly where the check of that code is the first that holds (R132, R139). -/
theorem exec_raised_iff {i : Instr} {s t : State} (hf : s.fault = false) (he : exec i s = .next t) (k : FaultKind) :
    (t.fault = true ∧ t.err = faultCode k) ↔ firstRaised (checksOf i s) = some k := by
  constructor
  · rintro ⟨ht, hk⟩
    obtain ⟨k', hk', rfl⟩ := exec_raised hf he ht
    rw [hk', faultCode_injective hk]
  · intro hk
    have hi : i ≠ .reset := by
      rintro rfl
      cases hk
    obtain rfl := Host.Outcome.next.inj (he.symm.trans (exec_raises hi hf hk))
    exact ⟨rfl, rfl⟩

/-- Settles O3. -/
theorem illegalCommandExactly : Obligations.IllegalCommandExactly := by
  intro w s hf
  refine ⟨fun h => (writeCmd_illegal (decode_error_of_wordLegal h) s).1 hf, fun h => ?_⟩
  obtain ⟨i, hi⟩ := Iff.mp wordLegal_iff_decode h
  refine ⟨i, hi, writeCmd_ok hi s, fun t he ht h4 => ?_⟩
  exact ne_illegalCommand_of_raised ((exec_raised_iff hf he .illegalCommand).mp ⟨ht, h4⟩) rfl

/-! ## Entering and leaving the faulted condition -/

/-- Only RESET's own word decodes to RESET (R51, R53). -/
theorem ne_reset_of_decode {w : Word} {i : Instr} (hd : decode w = .ok i) (hw : w ≠ 1) : i ≠ .reset := by
  rintro rfl
  exact hw (encodeOfDecode w .reset hd).symm

/-- While FAULT = 1 every CMD write but RESET is ignored (R134). -/
theorem writeCmd_faulted {w : Word} {s : State} (hf : s.fault = true) (hw : w ≠ 1) : writeCmd w s = .next s := by
  rcases writeCmd_cases w s with ⟨i, hd, h⟩ | ⟨e, -, h⟩
  · rw [h, exec_eq (ne_reset_of_decode hd hw)]
    exact command_faulted hf
  · rw [h]
    exact command_faulted hf

/-- A CMD write that faults writes FAULT and ERR and nothing else (R133). -/
theorem writeCmd_raised {w : Word} {s t : State} (hf : s.fault = false) (he : writeCmd w s = .next t)
    (ht : t.fault = true) : ∃ k, t = raise k s := by
  rcases writeCmd_cases w s with ⟨i, -, h⟩ | ⟨e, -, h⟩ <;> rw [h] at he
  · obtain ⟨k, -, hk⟩ := exec_raised hf he ht
    exact ⟨k, hk⟩
  · exact ⟨.illegalCommand, Host.Outcome.next.inj (he.symm.trans (command_raises hf rfl))⟩

/-- A write of a register leaves FAULT (R33). -/
theorem writeReg_fault (r : Reg) (v : Word) (s : State) : (writeReg r v s).fault = s.fault := by
  cases r <;> rfl

/-- A write of a register does not touch the host's script. -/
theorem writeReg_script (r : Reg) (v : Word) (s : State) (rest : List HostMove) :
    writeReg r v { s with script := rest } = { writeReg r v s with script := rest } := by
  cases r <;> rfl

/-- Every move of the host but hardware reset and a CMD write leaves FAULT (R133, R135). -/
theorem step_fault_cases {s t : State} (he : step s = .next t) :
    t.fault = s.fault ∨
    (∃ rest, s.script = .hardwareReset :: rest ∧ t.fault = false) ∨
    (∃ w rest, s.script = .write 0 w :: rest ∧ writeCmd w { s with script := rest } = .next t) := by
  rcases hs : s.script with _ | ⟨n | ⟨n, v⟩ | _, rest⟩
  · rw [step_nil hs] at he
    obtain rfl := Host.Outcome.next.inj he
    exact .inl rfl
  · rw [step_read hs] at he
    obtain rfl := Host.Outcome.next.inj he
    exact .inl rfl
  · by_cases hn : n = 0
    · subst hn
      rw [step_command hs] at he
      exact .inr (.inr ⟨v, rest, rfl, he⟩)
    · rw [step_write hs hn] at he
      obtain rfl := Host.Outcome.next.inj he
      exact .inl (writeReg_fault _ _ _)
  · rw [step_hardwareReset hs] at he
    obtain rfl := Host.Outcome.next.inj he
    exact .inr (.inl ⟨rest, rfl, rfl⟩)

/-- Settles O14. -/
theorem faultedEngineIgnoresCommands : Obligations.FaultedEngineIgnoresCommands := by
  intro s rest hf
  refine ⟨fun w hs hw => ?_, fun n hs => ?_, fun n v hs hn => ?_⟩
  · rw [step_command hs]
    exact writeCmd_faulted hf hw
  · rw [step_read hs, ← readReg_script (regOf n) s rest]
    rfl
  · rw [step_write hs hn, writeReg_script]

/-- Settles O15. -/
theorem faultsArePrecise : Obligations.FaultsArePrecise := by
  intro s t hf he ht
  rcases step_fault_cases he with h | ⟨rest, -, h⟩ | ⟨w, rest, hs, h⟩
  · cases ht.symm.trans (h.trans hf)
  · cases ht.symm.trans h
  · obtain ⟨k, hk⟩ := writeCmd_raised (s := { s with script := rest }) hf h ht
    exact ⟨w, rest, k, hs, hk⟩

/-- Settles O16: any other value written to CMD is ignored. -/
theorem onlyResetLeavesTheFault : Obligations.OnlyResetLeavesTheFault := by
  intro s t hf he ht
  rcases step_fault_cases he with h | ⟨rest, hs, -⟩ | ⟨w, rest, hs, h⟩
  · cases ht.symm.trans (h.trans hf)
  · exact .inl ⟨rest, hs⟩
  · by_cases hw : w = 1
    · subst hw
      obtain ⟨⟨u, -, hu, hcleared, -, -, hphase, -, herr, hconf, hhost⟩, -⟩ :=
        resetCommandClears { s with script := rest }
      obtain rfl := Host.Outcome.next.inj (hu.symm.trans h)
      exact .inr ⟨rest, hs, herr, hcleared, hphase, ⟨hconf.cfgv, hconf.cfgnw, hconf.cfgnr⟩, hhost⟩
    · rw [writeCmd_faulted (s := { s with script := rest }) hf hw] at h
      obtain rfl := Host.Outcome.next.inj h
      cases hf.symm.trans ht

end Sys2Proof.Machine
end

section
/-! PROOF. The exact condition of each fault code (O17, O18): the checks of the sequence come first, and each other code is that
of the remaining checks of a few commands. -/

namespace Sys2Proof.Machine

/-! ## SequenceError -/

/-- A command whose first checks are those of its configuration and its phases raises SequenceError where one of them fails,
or where a later check with the same fault does (R137). -/
theorem sequenceError_iff_of_phase {i : Instr} {s : State} {p : Bool} (hn : needsConfiguration i = true)
    (hp : p = true ↔ legalIn i s.phase s.lasttype) {rest : List (Bool × FaultKind)}
    (hr : firstRaised rest = some .sequenceError ↔ (i = .cenc ∨ i = .cdec) ∧ s.ckeyed = false) :
    firstRaised ((!s.cfgv, .sequenceError) :: (!p, .sequenceError) :: rest) = some .sequenceError ↔
      (needsConfiguration i = true ∧ s.cfgv = false) ∨ ¬legalIn i s.phase s.lasttype ∨
        ((i = .cenc ∨ i = .cdec) ∧ s.ckeyed = false) := by
  rw [firstRaised_cons_self, firstRaised_cons_self, hr, Bool.not_eq_true', Bool.not_eq_true', and_iff_right hn, ← hp,
    Bool.not_eq_true]

/-- A command that needs a configuration and is legal in every phase, as UOUT and HINIT are, raises SequenceError only for want
of it (R84, R105). -/
theorem sequenceError_iff_of_configuration {i : Instr} {s : State} (hn : needsConfiguration i = true)
    (hl : legalIn i s.phase s.lasttype) (hi : ¬(i = .cenc ∨ i = .cdec)) {rest : List (Bool × FaultKind)}
    (hr : firstRaised rest ≠ some .sequenceError) :
    firstRaised ((!s.cfgv, .sequenceError) :: rest) = some .sequenceError ↔
      (needsConfiguration i = true ∧ s.cfgv = false) ∨ ¬legalIn i s.phase s.lasttype ∨
        ((i = .cenc ∨ i = .cdec) ∧ s.ckeyed = false) := by
  rw [firstRaised_cons_self, Bool.not_eq_true', and_iff_right hn, or_iff_left hr,
    or_iff_left (not_or.mpr ⟨not_not_intro hl, fun h => hi h.1⟩)]

/-- After those of the configuration and the phases, only CENC and CDEC have a check for SequenceError (R137). -/
theorem sequenceError_raised_iff {i : Instr} {s : State} : firstRaised (checksOf i s) = some .sequenceError ↔
    (needsConfiguration i = true ∧ s.cfgv = false) ∨ ¬legalIn i s.phase s.lasttype ∨
      ((i = .cenc ∨ i = .cdec) ∧ s.ckeyed = false) := by
  cases i with
  | nop | reset | setcfg | twenc | cfgser =>
    refine iff_of_false ?_ ?_
    · simp [checksOf, -firstRaised_cons, firstRaised_cons_of_ne]
    · rintro (⟨h, -⟩ | h | ⟨h | h, -⟩)
      · cases h
      · exact h trivial
      · cases h
      · cases h
  | uout => exact sequenceError_iff_of_configuration (i := .uout) rfl trivial (by simp) (by simp)
  | hinit =>
    exact sequenceError_iff_of_configuration (i := .hinit) rfl trivial (by simp)
      (by simp [-firstRaised_cons, firstRaised_cons_of_ne])
  | cinit | cenc | cdec | uinit | uinitz | uupd => exact sequenceError_iff_of_phase rfl (lowLevelPhase_iff s) (by simp)
  | hkey => exact sequenceError_iff_of_phase rfl (keyPhase_iff s) (by simp)
  | hprs | hpk | hkdf | hnon => exact sequenceError_iff_of_phase rfl (optionalPhase_iff _ s) (by simp)
  | hmblk => exact sequenceError_iff_of_phase rfl (messagePhase_iff s) (by simp)
  | hmfin =>
    exact sequenceError_iff_of_phase rfl (messagePhase_iff s) (by simp [-firstRaised_cons, firstRaised_cons_of_ne])
  | hout => exact sequenceError_iff_of_phase rfl (outputPhase_iff s) (by simp)

/-- Settles O17. -/
theorem sequenceErrorExactly : Obligations.SequenceErrorExactly := fun _ _ _ hf he =>
  (exec_raised_iff hf he .sequenceError).trans sequenceError_raised_iff

/-! ## The conditions of the other checks -/

theorem blockSizeSupported_eq_false {b : Word} : blockSizeSupported b = false ↔ b ≠ 256 ∧ b ≠ 512 ∧ b ≠ 1024 := by
  rw [Bool.eq_false_iff, Ne, blockSizeSupported_iff, not_or, not_or]

theorem roundsSupported_eq_false {r : Word} : roundsSupported r = false ↔ r = 0 ∨ r.toNat % 4 ≠ 0 := by
  rw [Bool.eq_false_iff, Ne, roundsSupported_iff, not_and_or, not_not]

theorem outputTooLarge_iff {s : State} :
    outputTooLarge s = true ↔ obufMax < outputBlockCount s s.outlen * blockBytes s :=
  exceedsObuf_iff _

theorem inputTooLong_iff {s : State} : inputTooLong s = true ↔ blockBytes s < s.ilen.toNat := decide_eq_true_iff

theorem positionOverflow_iff {s : State} {n : Nat} : positionOverflow s n = true ↔ 2 ^ 64 - 1 < s.bpos.toNat + n :=
  decide_eq_true_iff

/-- Another fault is raised after the checks of the sequence only where these have passed (R139). -/
theorem raised_iff_of_phase {i : Instr} {s : State} {p : Bool} (hp : p = true ↔ legalIn i s.phase s.lasttype)
    {k : FaultKind} (hk : FaultKind.sequenceError ≠ k) {rest : List (Bool × FaultKind)} :
    firstRaised ((!s.cfgv, .sequenceError) :: (!p, .sequenceError) :: rest) = some k ↔
      s.cfgv = true ∧ legalIn i s.phase s.lasttype ∧ firstRaised rest = some k := by
  rw [firstRaised_cons_of_ne hk, firstRaised_cons_of_ne hk, Bool.not_eq_false', Bool.not_eq_false', hp]

/-- A command that takes ILEN bytes is refused an input longer than a block, once the sequence allows it (R132, R139). -/
theorem inputTooLong_iff_of_phase {i : Instr} {s : State} {p : Bool} (hp : p = true ↔ legalIn i s.phase s.lasttype)
    {rest : List (Bool × FaultKind)} (hr : firstRaised rest ≠ some .inputTooLong) :
    firstRaised ((!s.cfgv, .sequenceError) :: (!p, .sequenceError) :: (inputTooLong s, .inputTooLong) :: rest) =
        some .inputTooLong ↔
      s.cfgv = true ∧ legalIn i s.phase s.lasttype ∧ blockBytes s < s.ilen.toNat := by
  rw [raised_iff_of_phase hp (by decide), firstRaised_cons_self, or_iff_left hr, inputTooLong_iff]

/-! ## The codes 1, 2, 3, 6 and 7 (R132) -/

/-- Code 1: SETCFG's first check. -/
theorem blockSize_raised_iff {i : Instr} {s : State} : firstRaised (checksOf i s) = some .blockSize ↔
    i = .setcfg ∧ s.bsize ≠ 256 ∧ s.bsize ≠ 512 ∧ s.bsize ≠ 1024 := by
  rw [← blockSizeSupported_eq_false]
  cases i with
  | setcfg => simp [checksOf, -firstRaised_cons, firstRaised_cons_self, firstRaised_cons_of_ne]
  | _ => simp [checksOf, -firstRaised_cons, firstRaised_cons_of_ne]

/-- Code 2: SETCFG's second check. -/
theorem rounds_raised_iff {i : Instr} {s : State} : firstRaised (checksOf i s) = some .rounds ↔
    i = .setcfg ∧ (s.bsize = 256 ∨ s.bsize = 512 ∨ s.bsize = 1024) ∧ (s.rounds = 0 ∨ s.rounds.toNat % 4 ≠ 0) := by
  rw [← blockSizeSupported_iff, ← roundsSupported_eq_false]
  cases i with
  | setcfg => simp [checksOf, -firstRaised_cons, firstRaised_cons_self, firstRaised_cons_of_ne]
  | _ => simp [checksOf, -firstRaised_cons, firstRaised_cons_of_ne]

/-- Code 3: HINIT's first check after its configuration. -/
theorem outputLength_raised_iff {i : Instr} {s : State} : firstRaised (checksOf i s) = some .outputLength ↔
    i = .hinit ∧ s.cfgv = true ∧ s.outlen.toNat % 8 ≠ 0 := by
  cases i with
  | hinit => simp [checksOf, -firstRaised_cons, firstRaised_cons_self, firstRaised_cons_of_ne]
  | _ => simp [checksOf, -firstRaised_cons, firstRaised_cons_of_ne]

/-- Code 6: the first check after the sequence of every command that takes ILEN bytes. -/
theorem inputTooLong_raised_iff {i : Instr} {s : State} : firstRaised (checksOf i s) = some .inputTooLong ↔
    (i = .hkey ∨ i = .hprs ∨ i = .hpk ∨ i = .hkdf ∨ i = .hnon ∨ ∃ b, i = .hmfin b) ∧
      s.cfgv = true ∧ legalIn i s.phase s.lasttype ∧ blockBytes s < s.ilen.toNat := by
  cases i with
  | hkey =>
    rw [and_iff_right (.inl rfl)]
    exact inputTooLong_iff_of_phase (keyPhase_iff s) nofun
  | hprs | hpk | hkdf | hnon =>
    rw [and_iff_right (by simp)]
    exact inputTooLong_iff_of_phase (optionalPhase_iff _ s) nofun
  | hmfin =>
    rw [and_iff_right (by simp)]
    exact inputTooLong_iff_of_phase (messagePhase_iff s) (by simp [-firstRaised_cons, firstRaised_cons_of_ne])
  | _ => simp [checksOf, -firstRaised_cons, firstRaised_cons_of_ne]

/-- Code 7: TWENC's only check, and the last checks of HINIT, HMBLK and HMFIN. -/
theorem operandRange_raised_iff {i : Instr} {s : State} : firstRaised (checksOf i s) = some .operandRange ↔
    (∃ tag p f l, i = .twenc tag p f l ∧ 63 < tag.toNat) ∨
    (i = .hinit ∧ s.cfgv = true ∧ s.outlen.toNat % 8 = 0 ∧
      (s.tree ≠ 0 ∨ obufMax < outputBlockCount s s.outlen * blockBytes s)) ∨
    (i = .hmblk ∧ s.cfgv = true ∧ legalIn i s.phase s.lasttype ∧ 2 ^ 64 - 1 < s.bpos.toNat + blockBytes s) ∨
    (∃ b, i = .hmfin b ∧ s.cfgv = true ∧ legalIn i s.phase s.lasttype ∧ s.ilen.toNat ≤ blockBytes s ∧
      ((s.ilen = 0 ∧ (s.firstpend = false ∨ b = true)) ∨ 2 ^ 64 - 1 < s.bpos.toNat + s.ilen.toNat)) := by
  simp only [← outputTooLarge_iff, ← positionOverflow_iff, ← inputTooLong_eq_false, ← emptyLastBlock_iff]
  cases i with
  | twenc | hinit => simp [checksOf, -firstRaised_cons, firstRaised_cons_self, firstRaised_cons_of_ne]
  | hmblk =>
    refine (raised_iff_of_phase (i := .hmblk) (messagePhase_iff s) (by decide)).trans ?_
    simp
  | hmfin b =>
    refine (raised_iff_of_phase (i := .hmfin b) (messagePhase_iff s) (by decide)).trans ?_
    simp [-firstRaised_cons, firstRaised_cons_self, firstRaised_cons_of_ne]
  | _ => simp [checksOf, -firstRaised_cons, firstRaised_cons_of_ne]

/-- A command's fault has any code of R132 but 4 (R136). -/
theorem exec_err_mem {i : Instr} {s t : State} (hf : s.fault = false) (he : exec i s = .next t) (ht : t.fault = true) :
    t.err ∈ [1, 2, 3, 5, 6, 7] := by
  obtain ⟨k, hk, rfl⟩ := exec_raised hf he ht
  rw [raise_err]
  cases k with
  | illegalCommand => exact absurd rfl (ne_illegalCommand_of_raised hk)
  | _ => decide

/-- Settles O18. -/
theorem faultConditionsExactly : Obligations.FaultConditionsExactly := fun _ _ _ hf he =>
  ⟨(exec_raised_iff hf he .blockSize).trans blockSize_raised_iff, (exec_raised_iff hf he .rounds).trans rounds_raised_iff,
    (exec_raised_iff hf he .outputLength).trans outputLength_raised_iff,
    (exec_raised_iff hf he .inputTooLong).trans inputTooLong_raised_iff,
    (exec_raised_iff hf he .operandRange).trans operandRange_raised_iff, exec_err_mem hf he⟩

end Sys2Proof.Machine
end

section
/-! PROOF. A run (O6, O10) and a hash in progress (O59): a step makes the host's next move and answers a next state, whatever
the move, so a script runs to its end; inside a hash the low-level commands are outside the phases of R100. -/

namespace Sys2Proof.Machine

/-! ## The host's script runs to its end -/

/-- Settles O6. -/
theorem stepWithoutMoveChangesNothing : Obligations.StepWithoutMoveChangesNothing := fun _ => step_nil

/-- A CMD write answers a next state, whether its value is a command or not, and leaves the host's side as it is (R155, R162). -/
theorem writeCmd_answers (w : Word) (s : State) : ∃ t, writeCmd w s = .next t ∧ HostSideKept s t := by
  rcases writeCmd_cases w s with ⟨i, -, hw⟩ | ⟨e, -, hw⟩ <;> rw [hw]
  · obtain ⟨t, ht⟩ := exec_answers i s
    exact ⟨t, ht, noCommandWritesHostRegisters i s t ht⟩
  · obtain ⟨t, ht⟩ := command_answers [(true, .illegalCommand)] id s
    refine ⟨t, ht, ?_⟩
    rcases command_cases ht with ⟨-, rfl⟩ | ⟨k, -, -, rfl⟩ | ⟨-, -, rfl⟩ <;>
      exact ⟨rfl, rfl, rfl, rfl, rfl, rfl, rfl, rfl, rfl, rfl⟩

/-- A write of a register is no read. -/
theorem writeReg_reads (r : Reg) (v : Word) (s : State) : (writeReg r v s).reads = s.reads := by
  cases r <;> rfl

/-- A step with a move left answers a next state with that move taken off, and records one value if the move is a read
(R161, R162). -/
theorem step_answers {s : State} {m : HostMove} {rest : List HostMove} (h : s.script = m :: rest) :
    ∃ t, step s = .next t ∧ t.script = rest ∧
      ∃ vs, t.reads = s.reads ++ vs ∧ vs.length = ([m].filter isRead).length := by
  have hnone : s.reads = s.reads ++ [] := (List.append_nil _).symm
  cases m with
  | read n => exact ⟨_, step_read h, rfl, [_], rfl, rfl⟩
  | write n v =>
    by_cases hn : n = 0
    · subst hn
      obtain ⟨t, ht, hkept⟩ := writeCmd_answers v { s with script := rest }
      exact ⟨t, (step_command h).trans ht, hkept.script, [], hkept.reads.trans hnone, rfl⟩
    · refine ⟨_, step_write h hn, ?_, [], (writeReg_reads _ _ _).trans hnone, rfl⟩
      rw [writeReg_script]
  | hardwareReset => exact ⟨_, step_hardwareReset h, rfl, [], hnone, rfl⟩

/-- As many steps as a script has moves make them all (R161). -/
theorem run_script : ∀ (l : List HostMove) {s : State}, s.script = l →
    ∃ t, core.run l.length s = .next t ∧ t.script = [] ∧
      ∃ vs, t.reads = s.reads ++ vs ∧ vs.length = (l.filter isRead).length
  | [], s, h => ⟨s, run_zero s, h, [], (List.append_nil _).symm, rfl⟩
  | m :: rest, s, h => by
    obtain ⟨u, hstep, hu, vs, hvs, hlen⟩ := step_answers h
    obtain ⟨t, hrun, ht, ws, hws, hlen'⟩ := run_script rest hu
    refine ⟨t, (run_succ hstep _).trans hrun, ht, vs ++ ws, ?_, ?_⟩
    · rw [hws, hvs, List.append_assoc]
    · rw [List.length_append, hlen, hlen', ← List.length_append, ← List.filter_append, List.singleton_append]

/-- Settles O10. -/
theorem scriptRunsToItsEnd : Obligations.ScriptRunsToItsEnd := fun s => run_script s.script rfl

/-! ## The low-level commands inside a hash -/

/-- The commands that overwrite KS, TS or CV on their own need a configuration, and the table lists them for IDLE and DONE
only (R100, R157). -/
theorem legalIn_lowLevel {i : Instr} (h : i ∈ [.cinit, .cenc, .cdec, .uinit, .uinitz, .uupd]) (p : Phase) (last : BitVec 6) :
    needsConfiguration i = true ∧ (legalIn i p last ↔ p = .idle ∨ p = .done) := by
  cases i with
  | cinit | cenc | cdec | uinit | uinitz | uupd => exact ⟨rfl, Iff.rfl⟩
  | _ => simp at h

/-- Settles O59: PHASE is outside the phases of R100. -/
theorem hashOwnsCipherAndChaining : Obligations.HashOwnsCipherAndChaining := by
  intro i s hf _ hidle hdone hi
  obtain ⟨hn, hlegal⟩ := legalIn_lowLevel hi s.phase s.lasttype
  exact raises_sequenceError hn hf (.inr fun hl => (hlegal.mp hl).elim hidle hdone)

end Sys2Proof.Machine
end
